-- ==== Sys2Proof/Word.lean ====
section
/-! DEFINITION. The byte, the only unit of data this hardware has (00_scope.md R6, 20_memory.md R33). -/

namespace Sys2Proof

/-- A byte of a wire frame, a chunk or the residual buffer: an unsigned integer 0 to 255 (00_scope.md section 6.1). -/
abbrev Byte := BitVec 8

end Sys2Proof
end

