-- ==== Sys2Proof/Syntax.lean ====
section
/-! DEFINITION. The instruction set: one constructor per row of spec/opcode_table.json (30_encoding.md R72).
The five operations are the codes of port CMD and take their operands from the ports (R70). The eighteen wire rows
are the frame shapes of R51 and R52; their operands are the hex digits at the `ii` and `dd` positions. -/

namespace Sys2Proof

/-- One hex digit as it stands on the wire: its value, and whether a letter is written in lower case. R56 lets a frame
mix cases freely; the case is kept because a frame that is held back in the residual buffer keeps its bytes
(log entry 8). -/
structure HexDigit where
  value : BitVec 4
  lower : Bool
deriving DecidableEq, Repr

/-- The three identifier digits of a frame, most significant first (20_memory.md R31). -/
structure IdDigits where
  hi : HexDigit
  mid : HexDigit
  lo : HexDigit
deriving DecidableEq, Repr

/-- The two digits of one data byte, high nibble first (20_memory.md R31). -/
structure DataDigits where
  hi : HexDigit
  lo : HexDigit
deriving DecidableEq, Repr

/-- The rows of spec/opcode_table.json. -/
inductive Instr where
  /-- row T0: `74 ii ii ii 30 0D` -/
  | t0 (id : IdDigits)
  /-- row T1: a data frame with one data byte -/
  | t1 (id : IdDigits) (d0 : DataDigits)
  /-- row T2 -/
  | t2 (id : IdDigits) (d0 d1 : DataDigits)
  /-- row T3 -/
  | t3 (id : IdDigits) (d0 d1 d2 : DataDigits)
  /-- row T4 -/
  | t4 (id : IdDigits) (d0 d1 d2 d3 : DataDigits)
  /-- row T5 -/
  | t5 (id : IdDigits) (d0 d1 d2 d3 d4 : DataDigits)
  /-- row T6 -/
  | t6 (id : IdDigits) (d0 d1 d2 d3 d4 d5 : DataDigits)
  /-- row T7 -/
  | t7 (id : IdDigits) (d0 d1 d2 d3 d4 d5 d6 : DataDigits)
  /-- row T8: the longest data frame, 22 bytes -/
  | t8 (id : IdDigits) (d0 d1 d2 d3 d4 d5 d6 d7 : DataDigits)
  /-- row R0: `72 ii ii ii 30 0D` -/
  | r0 (id : IdDigits)
  /-- row R1: a remote frame with one data byte (R85: it carries its data digits) -/
  | r1 (id : IdDigits) (d0 : DataDigits)
  /-- row R2 -/
  | r2 (id : IdDigits) (d0 d1 : DataDigits)
  /-- row R3 -/
  | r3 (id : IdDigits) (d0 d1 d2 : DataDigits)
  /-- row R4 -/
  | r4 (id : IdDigits) (d0 d1 d2 d3 : DataDigits)
  /-- row R5 -/
  | r5 (id : IdDigits) (d0 d1 d2 d3 d4 : DataDigits)
  /-- row R6 -/
  | r6 (id : IdDigits) (d0 d1 d2 d3 d4 d5 : DataDigits)
  /-- row R7 -/
  | r7 (id : IdDigits) (d0 d1 d2 d3 d4 d5 d6 : DataDigits)
  /-- row R8 -/
  | r8 (id : IdDigits) (d0 d1 d2 d3 d4 d5 d6 d7 : DataDigits)
  /-- row OPEN, CMD 001 -/
  | opOpen
  /-- row CLOSE, CMD 010 -/
  | opClose
  /-- row FEED, CMD 011: operand on port RX -/
  | opFeed
  /-- row ENCODE, CMD 100: operand on port MSG_IN -/
  | opEncode
  /-- row DECODE, CMD 101: operand on port RX -/
  | opDecode
deriving DecidableEq, Repr

/-- A wire row seen as one record: its marker (remote or data), identifier digits and data digits (R51, R52). -/
structure WireFrame where
  remote : Bool
  id : IdDigits
  data : List DataDigits
deriving DecidableEq, Repr

/-- Why bytes are not an instruction: the reserved and illegal encodings of R61 and R71, by name. -/
inductive Rejection where
  /-- no bytes at all -/
  | noBytes
  /-- CMD 000, which selects no operation (R71) -/
  | idleCode
  /-- CMD 110 or 111 (R71) -/
  | reservedCode
  /-- the first byte is neither a command code nor a marker -/
  | notAnInstruction
  /-- fewer than the five bytes of marker and header -/
  | shortHeader
  /-- a byte at index 1, 2 or 3 is no hex digit (R61) -/
  | headerDigit
  /-- the byte at index 4 is not '0' to '8' (R61) -/
  | lengthDigit
  /-- a data position is missing or holds no hex digit (R61) -/
  | dataDigit
  /-- the terminator position is missing or holds another byte than 0x0D (R61) -/
  | noTerminator
deriving DecidableEq, Repr

/-- What reading one instruction from bytes gives: the instruction and the bytes after it, or a rejection by name. -/
inductive Decoded where
  | ok (i : Instr) (rest : List Byte)
  | rejected (r : Rejection)
deriving DecidableEq, Repr

end Sys2Proof
end

