-- ==== Sys2Proof/Machine/Hex.lean ====
section
/-! DEFINITION. The structural bytes of the wire format and the hex-digit primitives of 00_scope.md section 6.3,
which 30_encoding.md rules R55 to R58 give force. The code points are the ASCII standard's (log entry 14). -/

namespace Sys2Proof.Machine

/-- `'t'`, the data-frame marker (R51); matched exactly, `'T'` is not a marker (R58). -/
def dataMarker : Byte := 0x74#8

/-- `'r'`, the remote-frame marker (R52); noise to DECODE. -/
def remoteMarker : Byte := 0x72#8

/-- `'\r'`, the byte that ends a frame (R51). -/
def terminator : Byte := 0x0D#8

/-- `ishex` (R55): one of the 22 bytes '0' to '9', 'A' to 'F', 'a' to 'f'. -/
def isHex (b : Byte) : Bool :=
  decide (0x30 ≤ b.toNat ∧ b.toNat ≤ 0x39) || decide (0x41 ≤ b.toNat ∧ b.toNat ≤ 0x46)
    || decide (0x61 ≤ b.toNat ∧ b.toNat ≤ 0x66)

/-- `hexval` (R56). The spec defines it on hex digits only and no rule asks it of another byte; the last branch
therefore serves the lower-case letters. -/
def hexVal (b : Byte) : Nat :=
  if b.toNat ≤ 0x39 then b.toNat - 0x30
  else if b.toNat ≤ 0x46 then b.toNat - 0x41 + 10
  else b.toNat - 0x61 + 10

/-- `hexchar` (R57): the upper-case digit ENCODE emits for a value 0 to 15. -/
def hexChar (v : Nat) : Byte :=
  if v ≤ 9 then BitVec.ofNat 8 (0x30 + v) else BitVec.ofNat 8 (0x41 + v - 10)

/-- The byte of a wire digit: `hexChar` of its value, or the lower-case letter of the same value (R56). -/
def digitByte (d : HexDigit) : Byte :=
  if d.lower then BitVec.ofNat 8 (0x61 + d.value.toNat - 10) else hexChar d.value.toNat

/-- The wire digit a byte is, if it is a hex digit (R55, R56). -/
def digitOfByte (b : Byte) : Option HexDigit :=
  if isHex b then
    some { value := BitVec.ofNat 4 (hexVal b), lower := decide (0x61 ≤ b.toNat) }
  else none

/-- The digit in the case ENCODE emits (R57). -/
def upperDigit (v : Nat) : HexDigit := { value := BitVec.ofNat 4 v, lower := false }

/-- A byte with every lower-case hex letter replaced by its upper-case form (the correspondence of R56 and R141). -/
def upperHex (b : Byte) : Byte :=
  if 0x61 ≤ b.toNat ∧ b.toNat ≤ 0x66 then BitVec.ofNat 8 (b.toNat - 0x20) else b

end Sys2Proof.Machine
end

