-- ==== Sys2Proof/WellFormed.lean ====
section
/-! DEFINITION. Which terms of `Instr` the encoding admits. The one thing the types leave open is a lower-case decimal
digit, which no byte of R55 is. -/

namespace Sys2Proof

/-- A digit some byte of R55 stands for: only the letters A to F have a lower-case form. -/
def HexDigit.wf (d : HexDigit) : Bool := !d.lower || decide (10 ≤ d.value.toNat)

def IdDigits.wf (i : IdDigits) : Bool := i.hi.wf && i.mid.wf && i.lo.wf

def DataDigits.wf (d : DataDigits) : Bool := d.hi.wf && d.lo.wf

/-- Every digit of the frame is a digit of R55. -/
def WireFrame.wf (f : WireFrame) : Bool := f.id.wf && f.data.all DataDigits.wf

/-- An instruction every operand of which the encoding admits. -/
def Instr.wf : Instr → Bool
  | .t0 id | .r0 id => id.wf
  | .t1 id d0 | .r1 id d0 => id.wf && d0.wf
  | .t2 id d0 d1 | .r2 id d0 d1 => id.wf && d0.wf && d1.wf
  | .t3 id d0 d1 d2 | .r3 id d0 d1 d2 => id.wf && d0.wf && d1.wf && d2.wf
  | .t4 id d0 d1 d2 d3 | .r4 id d0 d1 d2 d3 => id.wf && d0.wf && d1.wf && d2.wf && d3.wf
  | .t5 id d0 d1 d2 d3 d4 | .r5 id d0 d1 d2 d3 d4 => id.wf && d0.wf && d1.wf && d2.wf && d3.wf && d4.wf
  | .t6 id d0 d1 d2 d3 d4 d5 | .r6 id d0 d1 d2 d3 d4 d5 =>
      id.wf && d0.wf && d1.wf && d2.wf && d3.wf && d4.wf && d5.wf
  | .t7 id d0 d1 d2 d3 d4 d5 d6 | .r7 id d0 d1 d2 d3 d4 d5 d6 =>
      id.wf && d0.wf && d1.wf && d2.wf && d3.wf && d4.wf && d5.wf && d6.wf
  | .t8 id d0 d1 d2 d3 d4 d5 d6 d7 | .r8 id d0 d1 d2 d3 d4 d5 d6 d7 =>
      id.wf && d0.wf && d1.wf && d2.wf && d3.wf && d4.wf && d5.wf && d6.wf && d7.wf
  | .opOpen | .opClose | .opFeed | .opEncode | .opDecode => true

end Sys2Proof
end

