-- ==== Sys2Proof/Decode.lean ====
section
/-! DEFINITION. The instruction decoder, total on any bytes, and after it the encoder. Operations are the 3-bit codes
of 30_encoding.md R70, one byte each here; wire rows are the layouts of R51, R52 and R54. -/

namespace Sys2Proof

open Sys2Proof.Machine

/-- What a code on port CMD selects (R70, R71). -/
def decodeCommand (c : BitVec 3) : Except Rejection Instr :=
  match c.toNat with
  | 0 => .error .idleCode
  | 1 => .ok .opOpen
  | 2 => .ok .opClose
  | 3 => .ok .opFeed
  | 4 => .ok .opEncode
  | 5 => .ok .opDecode
  | _ => .error .reservedCode

/-- The length a byte at frame index 4 announces: '0' to '8' (R51, R61). -/
def lengthOfByte (b : Byte) : Option Nat :=
  if 0x30 ≤ b.toNat ∧ b.toNat ≤ 0x38 then some (b.toNat - 0x30) else none

/-- `n` data bytes, two digits each, and the bytes after them (R51). -/
def takeData : Nat → List Byte → Option (List DataDigits × List Byte)
  | 0, bs => some ([], bs)
  | n + 1, a :: b :: bs =>
      match digitOfByte a, digitOfByte b with
      | some hi, some lo => (takeData n bs).map (fun p => (⟨hi, lo⟩ :: p.1, p.2))
      | _, _ => none
  | _ + 1, _ => none

/-- The row of a frame: the marker chooses T or R, the number of data bytes the digit (R72). -/
def frameInstr : WireFrame → Option Instr
  | ⟨false, id, []⟩ => some (.t0 id)
  | ⟨false, id, [d0]⟩ => some (.t1 id d0)
  | ⟨false, id, [d0, d1]⟩ => some (.t2 id d0 d1)
  | ⟨false, id, [d0, d1, d2]⟩ => some (.t3 id d0 d1 d2)
  | ⟨false, id, [d0, d1, d2, d3]⟩ => some (.t4 id d0 d1 d2 d3)
  | ⟨false, id, [d0, d1, d2, d3, d4]⟩ => some (.t5 id d0 d1 d2 d3 d4)
  | ⟨false, id, [d0, d1, d2, d3, d4, d5]⟩ => some (.t6 id d0 d1 d2 d3 d4 d5)
  | ⟨false, id, [d0, d1, d2, d3, d4, d5, d6]⟩ => some (.t7 id d0 d1 d2 d3 d4 d5 d6)
  | ⟨false, id, [d0, d1, d2, d3, d4, d5, d6, d7]⟩ => some (.t8 id d0 d1 d2 d3 d4 d5 d6 d7)
  | ⟨true, id, []⟩ => some (.r0 id)
  | ⟨true, id, [d0]⟩ => some (.r1 id d0)
  | ⟨true, id, [d0, d1]⟩ => some (.r2 id d0 d1)
  | ⟨true, id, [d0, d1, d2]⟩ => some (.r3 id d0 d1 d2)
  | ⟨true, id, [d0, d1, d2, d3]⟩ => some (.r4 id d0 d1 d2 d3)
  | ⟨true, id, [d0, d1, d2, d3, d4]⟩ => some (.r5 id d0 d1 d2 d3 d4)
  | ⟨true, id, [d0, d1, d2, d3, d4, d5]⟩ => some (.r6 id d0 d1 d2 d3 d4 d5)
  | ⟨true, id, [d0, d1, d2, d3, d4, d5, d6]⟩ => some (.r7 id d0 d1 d2 d3 d4 d5 d6)
  | ⟨true, id, [d0, d1, d2, d3, d4, d5, d6, d7]⟩ => some (.r8 id d0 d1 d2 d3 d4 d5 d6 d7)
  | _ => none

/-- The bytes after a marker, read as the rest of a frame (R51, R52, R54). -/
def decodeFrameBody (remote : Bool) : List Byte → Decoded
  | b1 :: b2 :: b3 :: b4 :: body =>
      match digitOfByte b1, digitOfByte b2, digitOfByte b3 with
      | some hi, some mid, some lo =>
          match lengthOfByte b4 with
          | none => .rejected .lengthDigit
          | some n =>
              match takeData n body with
              | none => .rejected .dataDigit
              | some (_, []) => .rejected .noTerminator
              | some (ds, q :: rest) =>
                  if q = terminator then
                    match frameInstr ⟨remote, ⟨hi, mid, lo⟩, ds⟩ with
                    | some i => .ok i rest
                    | none => .rejected .lengthDigit
                  else .rejected .noTerminator
      | _, _, _ => .rejected .headerDigit
  | _ => .rejected .shortHeader

/-- A wire frame at the head of a byte sequence. -/
def decodeWire : List Byte → Decoded
  | [] => .rejected .noBytes
  | b :: bs =>
      if b = dataMarker then decodeFrameBody false bs
      else if b = remoteMarker then decodeFrameBody true bs
      else .rejected .notAnInstruction

/-- One instruction at the head of a byte sequence: a command code in a byte of its own (values below 8, R70), or a
wire frame. The two cannot be confused: both markers are above 7. -/
def decode : List Byte → Decoded
  | [] => .rejected .noBytes
  | b :: bs =>
      if b.toNat < 8 then
        match decodeCommand (BitVec.ofNat 3 b.toNat) with
        | .ok i => .ok i bs
        | .error r => .rejected r
      else decodeWire (b :: bs)

/-- A wire row as one record; the operations are no frames. -/
def Instr.frame? : Instr → Option WireFrame
  | .t0 id => some ⟨false, id, []⟩
  | .t1 id d0 => some ⟨false, id, [d0]⟩
  | .t2 id d0 d1 => some ⟨false, id, [d0, d1]⟩
  | .t3 id d0 d1 d2 => some ⟨false, id, [d0, d1, d2]⟩
  | .t4 id d0 d1 d2 d3 => some ⟨false, id, [d0, d1, d2, d3]⟩
  | .t5 id d0 d1 d2 d3 d4 => some ⟨false, id, [d0, d1, d2, d3, d4]⟩
  | .t6 id d0 d1 d2 d3 d4 d5 => some ⟨false, id, [d0, d1, d2, d3, d4, d5]⟩
  | .t7 id d0 d1 d2 d3 d4 d5 d6 => some ⟨false, id, [d0, d1, d2, d3, d4, d5, d6]⟩
  | .t8 id d0 d1 d2 d3 d4 d5 d6 d7 => some ⟨false, id, [d0, d1, d2, d3, d4, d5, d6, d7]⟩
  | .r0 id => some ⟨true, id, []⟩
  | .r1 id d0 => some ⟨true, id, [d0]⟩
  | .r2 id d0 d1 => some ⟨true, id, [d0, d1]⟩
  | .r3 id d0 d1 d2 => some ⟨true, id, [d0, d1, d2]⟩
  | .r4 id d0 d1 d2 d3 => some ⟨true, id, [d0, d1, d2, d3]⟩
  | .r5 id d0 d1 d2 d3 d4 => some ⟨true, id, [d0, d1, d2, d3, d4]⟩
  | .r6 id d0 d1 d2 d3 d4 d5 => some ⟨true, id, [d0, d1, d2, d3, d4, d5]⟩
  | .r7 id d0 d1 d2 d3 d4 d5 d6 => some ⟨true, id, [d0, d1, d2, d3, d4, d5, d6]⟩
  | .r8 id d0 d1 d2 d3 d4 d5 d6 d7 => some ⟨true, id, [d0, d1, d2, d3, d4, d5, d6, d7]⟩
  | .opOpen | .opClose | .opFeed | .opEncode | .opDecode => none

/-- The wire bytes of a frame, index 0 first on the wire (R51, R52). -/
def frameBytes (f : WireFrame) : List Byte :=
  [if f.remote then remoteMarker else dataMarker, digitByte f.id.hi, digitByte f.id.mid, digitByte f.id.lo,
    hexChar f.data.length]
  ++ f.data.flatMap (fun d => [digitByte d.hi, digitByte d.lo]) ++ [terminator]

/-- The code of an operation on port CMD (R70); a wire row has none. -/
def commandCode : Instr → Option (BitVec 3)
  | .opOpen => some 0b001#3
  | .opClose => some 0b010#3
  | .opFeed => some 0b011#3
  | .opEncode => some 0b100#3
  | .opDecode => some 0b101#3
  | .t0 .. | .t1 .. | .t2 .. | .t3 .. | .t4 .. | .t5 .. | .t6 .. | .t7 .. | .t8 .. => none
  | .r0 .. | .r1 .. | .r2 .. | .r3 .. | .r4 .. | .r5 .. | .r6 .. | .r7 .. | .r8 .. => none

/-- The bytes of an instruction: a frame's wire bytes, or an operation's code in one byte. -/
def encode (i : Instr) : List Byte :=
  match i.frame?, commandCode i with
  | some f, _ => frameBytes f
  | none, some c => [c.setWidth 8]
  | none, none => []

/-- The low `n` bytes of a number, least significant first. -/
def lowBytes : Nat → Nat → List Byte
  | 0, _ => []
  | n + 1, w => BitVec.ofNat 8 w :: lowBytes n (w / 256)

/-- The bytes of a table word in wire order. The first byte is the least significant one, except where the word is a
frame written as R54 and the table's own note number it, "index 0 as the most significant byte": such a word has the
terminator as its least significant byte, which no word of the first numbering has (log entry 9). -/
def tableBytes (nbits w : Nat) : List Byte :=
  let bs := lowBytes ((nbits + 7) / 8) w
  match bs with
  | b :: _ => if b = terminator then bs.reverse else bs
  | [] => []

/-- The instruction the decoder reads from a word numbered as spec/opcode_table.json numbers it. -/
def decodeTableWord (nbits w : Nat) : Option Instr :=
  match decode (tableBytes nbits w) with
  | .ok i _ => some i
  | .rejected _ => none

end Sys2Proof
end

