-- ==== Sys2Proof/Config.lean ====
section
/-! DEFINITION. The implementation parameters of 00_scope.md rule R6. The two the spec leaves OPEN are the fields
of `Config`; the fixed ones are constants. `State` carries a `Config` that no step changes, so every statement over
all states is a statement over all parameter values (log entry 4). -/

namespace Sys2Proof

/-- The OPEN parameters of R6: the residual buffer's safety bound, and the longest chunk one FEED accepts
(`none` is "unbounded"). -/
structure Config where
  ceiling : Nat
  maxChunk : Option Nat
deriving DecidableEq, Repr

/-- `CEILING >= 21`, the constraint R6 and R182 put on the parameter. -/
abbrev Config.legal (c : Config) : Prop := 21 ≤ c.ceiling

/-- The values `State.reset` takes: the suggested ceiling 512 (R6) and no chunk limit.
DESIGN CHOICE (log entry 4): R6 leaves both OPEN; no statement rests on these values. -/
def Config.suggested : Config := { ceiling := 512, maxChunk := none }

/-- `LEN_MAX` and `DATA_CAP` (R6). -/
def lenMax : Nat := 8

/-- `MIN_WINDOW`, the shortest window DECODE examines (R6). -/
def minWindow : Nat := 5

/-- `FRAME_MIN`, the shortest frame (R6). -/
def frameMin : Nat := 6

/-- `FRAME_MAX`, the longest frame (R6). -/
def frameMax : Nat := 22

end Sys2Proof
end

