-- ==== Sys2Proof/Machine/State.lean ====
section
/-! DEFINITION. The state of one block instance, the values that cross its ports, the reasons a step can stop, and
the state after reset (10_state.md). -/

namespace Sys2Proof.Machine

/-- The eight entries `data[0]` to `data[7]` of a message (10_state.md R12). -/
structure MessageData where
  b0 : Byte
  b1 : Byte
  b2 : Byte
  b3 : Byte
  b4 : Byte
  b5 : Byte
  b6 : Byte
  b7 : Byte
deriving DecidableEq, Repr

/-- One CAN message with the port widths of 10_state.md R26: `length` has four bits, so 9 to 15 are representable and
not legal (R11). -/
structure CanMessage where
  identifier : BitVec 12
  length : BitVec 4
  data : MessageData
  isRemoteRequest : Bool
deriving DecidableEq, Repr

/-- The result of one decode attempt (10_state.md R16). -/
inductive DecodeOutcome where
  | incomplete
  | skipPrefix (n : Nat)
  | frame (message : CanMessage) (consumed : Nat)
deriving DecidableEq, Repr

/-- The four recovered conditions and the information each carries (60_exceptions.md R150, R151). -/
inductive Condition where
  | incompleteInput
  | desynchronized (k : Nat)
  | malformedFrame (p : Nat)
  | bufferOverflow (n : Nat)
deriving DecidableEq, Repr

/-- The residual buffer as a memory: the byte at index `i` is the list's element `i`, index 0 the oldest byte
(20_memory.md R30). A list by position is its own canonical form (log entry 7). -/
abbrev Memory := List Byte

/-- The memory as the interface's cells, index and byte. -/
def Memory.cells (m : Memory) : List Host.Cell := (List.range m.length).zip m

/-- The canonical form: the cells' addresses are 0, 1, ... with no gap and no repeat, so an index at or past the
length has no byte and two equal memories are equal data. -/
abbrev Memory.wf (m : Memory) : Prop := m.cells.map Prod.fst = List.range m.length

/-- One thing the host asks of the block (10_state.md R26, 70_reset_and_hazards.md R187). -/
inductive Request where
  /-- the host drives CMD with `code`, RX with `rx` and MSG_IN with `msgIn` -/
  | command (code : BitVec 3) (rx : List Byte) (msgIn : CanMessage)
  /-- a transport read delivers `chunk`, which the host passes to FEED as it is (R174; log entry 1) -/
  | wireChunk (chunk : List Byte)
  /-- the host asserts RESET (R170) -/
  | reset
deriving DecidableEq, Repr

/-- The block and what the host has asked of it. -/
structure State where
  /-- the parameters of 00_scope.md R6; no step changes them -/
  config : Config
  /-- the flag `open` (10_state.md R15) -/
  isOpen : Bool
  /-- `R` (10_state.md R14) -/
  residual : Memory
  /-- port CMD (R26) -/
  cmd : BitVec 3
  /-- port RX (R26); its length is bounded where FEED reads it, not where DECODE does (log entry 24) -/
  rx : List Byte
  /-- port MSG_IN (R26) -/
  msgIn : CanMessage
  /-- port TX; `none` is "carries nothing" (R24, R26) -/
  tx : Option (List Byte)
  /-- port MSG_OUT -/
  msgOut : Option (List CanMessage)
  /-- port OUTCOME -/
  outcome : Option DecodeOutcome
  /-- the operations the host has issued and the block has not begun, first one first (log entry 2) -/
  pending : List Request
  /-- the ghost list of conditions R150 lets a model keep, oldest first; no rule reads it (log entry 5) -/
  events : List Condition
deriving DecidableEq, Repr

/-- Why the machine stops with a fault: never. The block has no trap and nothing is fatal (60_exceptions.md, its
opening words and R150), and no operation reads an index outside a buffer (41_decoder.md R101), so the type has no
constructor (log entry 18). -/
inductive Fault where
deriving DecidableEq, Repr

/-- Why an operation has no next state: the refusals the spec names. -/
inductive Refusal where
  /-- Raised by `exec` for an instruction whose meaning is not written yet. Safe. No arm raises it. -/
  | notModelled (mnemonic : String)
  /-- Raised by FEED, and by a wire frame's arrival, while `open` is false (42_reassembler.md R118). Safe. -/
  | feedWhileClosed
  /-- Raised by FEED, and by a wire frame's arrival, when the chunk is longer than MAX_CHUNK (R118). Safe. -/
  | chunkTooLong
  /-- Raised by ENCODE when `length` is above 8 (40_encoder.md R84). Safe. -/
  | encodeLengthOutOfRange
  /-- Raised by the command port for CMD 110 and 111 (30_encoding.md R71). Safe. -/
  | reservedCommand
deriving DecidableEq, Repr

/-- What an operation or a step of this machine answers. -/
abbrev Result := Host.Outcome State Fault Refusal

/-- Eight data entries 0x00. -/
def MessageData.zero : MessageData := ⟨0, 0, 0, 0, 0, 0, 0, 0⟩

/-- What port MSG_IN carries in `State.reset`. DESIGN CHOICE (log entry 6). -/
def CanMessage.zero : CanMessage := { identifier := 0, length := 0, data := .zero, isRemoteRequest := false }

/-- The block right after RESET, which is also a block instance just built (70_reset_and_hazards.md R170, 10_state.md
R24): closed, empty, the result ports carrying nothing. The input ports and the configuration are the model's choices
(log entries 4 and 6). -/
def State.reset : State where
  config := Config.suggested
  isOpen := false
  residual := []
  cmd := 0
  rx := []
  msgIn := CanMessage.zero
  tx := none
  msgOut := none
  outcome := none
  pending := []
  events := []

end Sys2Proof.Machine
end

