-- ==== Sys2Proof/Machine/Operands.lean ====
section
/-! DEFINITION. The operand forms: the fields of a message as digits and bytes (30_encoding.md R59, R60), a window
byte by byte (20_memory.md R33), and the operand ports (10_state.md R26). -/

namespace Sys2Proof.Machine

/-- `MemRead` of one byte (20_memory.md R33): the byte at an index, nothing at or past the length. -/
def Memory.read (m : Memory) (i : Nat) : Option Byte := m[i]?

/-- Whether the byte at an index is a hex digit (R55); an index past the end holds none. -/
def hexAt (w : Memory) (i : Nat) : Bool := (w.read i).any isHex

/-- The value of the digit at an index; asked only where `hexAt` holds (R59). -/
def hexValAt (w : Memory) (i : Nat) : Nat := ((w.read i).map hexVal).getD 0

/-- `identifier` of R59, from the digits at indices 1, 2, 3. -/
def identifierAt (w : Memory) : Nat := hexValAt w 1 * 256 + hexValAt w 2 * 16 + hexValAt w 3

/-- `length` of R59, from the digit at index 4. -/
def lengthAt (w : Memory) : Nat := hexValAt w 4

/-- `data[j]` of R59, from the digits at indices `5 + 2j` and `6 + 2j`. -/
def dataAt (w : Memory) (j : Nat) : Byte :=
  BitVec.ofNat 8 (hexValAt w (5 + 2 * j) * 16 + hexValAt w (6 + 2 * j))

/-- The eight entries as a list, `data[0]` first. -/
def dataList (d : MessageData) : List Byte := [d.b0, d.b1, d.b2, d.b3, d.b4, d.b5, d.b6, d.b7]

/-- Entry `data[i]` (10_state.md R12). -/
def dataEntry (d : MessageData) (i : Nat) : Byte := (dataList d).getD i 0

/-- A message's data from its meaningful bytes; the entries past them are 0x00 (41_decoder.md R99). -/
def dataOfList (l : List Byte) : MessageData :=
  ⟨l.getD 0 0, l.getD 1 0, l.getD 2 0, l.getD 3 0, l.getD 4 0, l.getD 5 0, l.getD 6 0, l.getD 7 0⟩

/-- The meaningful entries `data[0] .. data[length-1]` (10_state.md R12). -/
def payload (m : CanMessage) : List Byte := (dataList m.data).take m.length.toNat

/-- Equality of messages (10_state.md R28): entries at or past `length` do not take part. -/
abbrev CanMessage.same (a b : CanMessage) : Prop :=
  a.identifier = b.identifier ∧ a.length = b.length ∧ a.isRemoteRequest = b.isRemoteRequest ∧
    payload a = payload b

/-- `length <= 8`, the legal messages (10_state.md R11; `identifier <= 0xFFF` holds by its width, R10). -/
abbrev CanMessage.legal (m : CanMessage) : Prop := m.length.toNat ≤ lenMax

/-- The value of a data byte's two digits (R59). -/
def dataDigitsByte (d : DataDigits) : Byte := BitVec.ofNat 8 (d.hi.value.toNat * 16 + d.lo.value.toNat)

/-- The message a wire frame carries (R59; R13 for a remote frame's flag). -/
def frameMessage (f : WireFrame) : CanMessage where
  identifier := BitVec.ofNat 12 (f.id.hi.value.toNat * 256 + f.id.mid.value.toNat * 16 + f.id.lo.value.toNat)
  length := BitVec.ofNat 4 f.data.length
  data := dataOfList (f.data.map dataDigitsByte)
  isRemoteRequest := f.remote

/-- The three identifier digits ENCODE emits (R60, R57). -/
def identifierDigits (m : CanMessage) : List Byte :=
  [hexChar (m.identifier.toNat / 256), hexChar (m.identifier.toNat / 16 % 16), hexChar (m.identifier.toNat % 16)]

/-- The two digits ENCODE emits for a data byte, high nibble first (R60, R57). -/
def byteDigits (b : Byte) : List Byte := [hexChar (b.toNat / 16), hexChar (b.toNat % 16)]

/-- The host drives the input ports (R26). -/
def State.drive (code : BitVec 3) (rx : List Byte) (msgIn : CanMessage) (s : State) : State :=
  { s with cmd := code, rx := rx, msgIn := msgIn }

end Sys2Proof.Machine
end

