-- ==== Sys2Proof/Machine/Flags.lean ====
section
/-! DEFINITION. The hardware has no status flags (10_state.md R19). What takes their place is the classification of a
decode attempt into a recovered condition (60_exceptions.md R151), which goes to the ghost list only. -/

namespace Sys2Proof.Machine

/-- The condition of an attempt on window `w` that skips `n` bytes (R151): noise before a marker, or a malformed frame
whose marker stands at index 0. -/
def skipCondition (w : Memory) (n : Nat) : Condition :=
  if w.read 0 = some dataMarker then .malformedFrame n else .desynchronized n

/-- The condition an attempt on window `w` with outcome `o` raises (R151); a frame raises nothing. -/
def conditionOf (w : Memory) (o : DecodeOutcome) : Option Condition :=
  match o with
  | .incomplete => some .incompleteInput
  | .skipPrefix n => some (skipCondition w n)
  | .frame _ _ => none

end Sys2Proof.Machine
end

