-- ==== Sys2Proof/Machine/Ops.lean ====
section
/-! DEFINITION. The shared operations: the write primitives of the residual buffer (20_memory.md R33), the codec's two
pure functions (40_encoder.md R80, 41_decoder.md R90), the reassembler's loop with its conditions and safety bound
(42_reassembler.md R110, R114), and RESET (70_reset_and_hazards.md R170).

The spec gives no exception entry and no return from one: "there is no handler" (60_exceptions.md R157, R158). Raising
a condition is `Drained.raise`; its recovery is the loop's next statement. -/

namespace Sys2Proof.Machine

/-! ### The buffer -/

/-- Append, `R <- R ++ s` (R33). -/
def Memory.append (m : Memory) (chunk : List Byte) : Memory := m ++ chunk

/-- Trim, `R <- R[n:]` (R33). -/
def Memory.trim (m : Memory) (n : Nat) : Memory := m.drop n

/-- Clear, `R <- []` (R33). -/
def Memory.clear (_ : Memory) : Memory := []

/-! ### ENCODE -/

/-- `ENCODE(m)` (R80), the frame's bytes; asked of legal messages only (R84). -/
def encodeMessage (m : CanMessage) : List Byte :=
  [if m.isRemoteRequest then remoteMarker else dataMarker]
  ++ identifierDigits m
  ++ [hexChar m.length.toNat]
  ++ (payload m).flatMap byteDigits
  ++ [terminator]

/-! ### DECODE -/

/-- `find_t` (00_scope.md section 6.3): the least index of a marker. -/
def findMarker (w : Memory) : Option Nat := w.findIdx? (fun b => b == dataMarker)

/-- The least of the `n` positions from `p` on that holds no hex digit. -/
def firstNonHex (w : Memory) (p : Nat) : Nat → Option Nat
  | 0 => none
  | n + 1 => if hexAt w p then firstNonHex w (p + 1) n else some p

/-- The message of a frame whose digits have been checked (R93, R97, R99). -/
def windowMessage (w : Memory) : CanMessage where
  identifier := BitVec.ofNat 12 (identifierAt w)
  length := BitVec.ofNat 4 (lengthAt w)
  data := dataOfList ((List.range (lengthAt w)).map (dataAt w))
  isRemoteRequest := false

/-- Step 5, the terminator at index `q` (R98). -/
def decodeTerminator (w : Memory) (q : Nat) : DecodeOutcome :=
  match w.read q with
  | none => .incomplete
  | some b => if b = terminator then .frame (windowMessage w) (q + 1) else .skipPrefix q

/-- Steps 3 to 5 with the marker at index 0, the tests in the order of R103. -/
def decodeAtMarker (w : Memory) : DecodeOutcome :=
  match firstNonHex w 1 4 with
  | some p => .skipPrefix p
  | none =>
      if lenMax < lengthAt w then .skipPrefix 4
      else if w.length < 2 * lengthAt w + 5 then .incomplete
      else
        match firstNonHex w 5 (2 * lengthAt w) with
        | some p => .skipPrefix p
        | none => decodeTerminator w (5 + 2 * lengthAt w)

/-- `DECODE(B)` (R90): the single decode attempt, total on any window. -/
def decodeWindow (w : Memory) : DecodeOutcome :=
  if w.length < minWindow then .incomplete
  else
    match findMarker w with
    | none => .incomplete
    | some 0 => decodeAtMarker w
    | some (k + 1) => .skipPrefix (k + 1)

/-! ### FEED -/

/-- What the reassembler's loop has done: the buffer it leaves, the messages and the conditions, in order. -/
structure Drained where
  residual : Memory
  messages : List CanMessage
  events : List Condition
deriving DecidableEq, Repr

/-- `raise C(info)` before the rest of the loop (00_scope.md section 6.3). -/
def Drained.raise (c : Condition) (d : Drained) : Drained := { d with events := c :: d.events }

/-- `out <- out ++ [m]` before the rest of the loop (R113). -/
def Drained.emit (m : CanMessage) (d : Drained) : Drained := { d with messages := m :: d.messages }

/-- FEED's loop (R110, R112, R113, R119). The first argument bounds the passes; `drain` gives it a bound no run
reaches, since every pass but the last removes a byte (R115; log entry 17). -/
def drainLoop : Nat → Memory → Drained
  | 0, r => { residual := r, messages := [], events := [] }
  | n + 1, r =>
      match decodeWindow r with
      | .incomplete => { residual := r, messages := [], events := [.incompleteInput] }
      | .skipPrefix k => (drainLoop n (r.trim k)).raise (skipCondition r k)
      | .frame m c => (drainLoop n (r.trim c)).emit m

/-- The loop on a buffer, until an attempt is `Incomplete`. -/
def drain (r : Memory) : Drained := drainLoop (r.length + 1) r

/-- The safety bound, once, after the loop (R114, R156). -/
def safetyBound (ceiling : Nat) (d : Drained) : Drained :=
  if ceiling < d.residual.length then
    { d with residual := d.residual.clear, events := d.events ++ [.bufferOverflow d.residual.length] }
  else d

/-- Append, loop, bound: the whole of one FEED on a buffer (R110, R111). -/
def reassemble (ceiling : Nat) (r : Memory) (chunk : List Byte) : Drained :=
  safetyBound ceiling (drain (r.append chunk))

/-- Whether a chunk is longer than MAX_CHUNK (R118); an unbounded MAX_CHUNK refuses none. -/
def chunkTooLong (c : Config) (chunk : List Byte) : Bool :=
  match c.maxChunk with
  | none => false
  | some n => decide (n < chunk.length)

/-- The buffer and the result port after a FEED. -/
def State.deliver (d : Drained) (s : State) : State :=
  { s with residual := d.residual, msgOut := some d.messages, events := s.events ++ d.events }

/-- FEED of a chunk (R110, R118). -/
def State.feedChunk (chunk : List Byte) (s : State) : Result :=
  if s.isOpen = false then .refused .feedWhileClosed
  else if chunkTooLong s.config chunk then .refused .chunkTooLong
  else .next (s.deliver (reassemble s.config.ceiling s.residual chunk))

/-- The arrival of a wire frame: its bytes are the chunk of one FEED (70_reset_and_hazards.md R174; log entry 1). -/
def State.receiveFrame (f : WireFrame) (s : State) : Result := s.feedChunk (frameBytes f)

/-! ### RESET -/

/-- RESET (R170): the block as `State.reset` has it, the configuration unchanged (R24). What the host has asked for
next and the ghost list are not the block's (log entry 10). -/
def State.applyReset (s : State) : State :=
  { State.reset with config := s.config, pending := s.pending, events := s.events }

end Sys2Proof.Machine
end

