-- ==== Sys2Proof/Machine/Codec.lean ====
section
/-! DEFINITION. The operations of the Frame Codec: ENCODE (40_encoder.md) and DECODE (41_decoder.md). They need no
open connection and touch no persistent state. -/

namespace Sys2Proof.Machine

/-- ENCODE (R80) of the message on port MSG_IN; a length above 8 is refused, never repaired (R84). -/
def execOpEncode (s : State) : Result :=
  if s.msgIn.length.toNat ≤ lenMax then .next { s with tx := some (encodeMessage s.msgIn) }
  else .refused .encodeLengthOutOfRange

/-- DECODE (R90) of the window on port RX, of any length (R90, R101). DESIGN CHOICE, unsafe (log entry 24): the RX row
of 10_state.md R26 gives a length of 0 to MAX_CHUNK; no test of MAX_CHUNK is made here. -/
def execOpDecode (s : State) : Result := .next { s with outcome := some (decodeWindow s.rx) }

end Sys2Proof.Machine
end

