-- ==== Sys2Proof/Machine/Connection.lean ====
section
/-! DEFINITION. The operations of the Stream Reassembler: OPEN, CLOSE and FEED (42_reassembler.md). -/

namespace Sys2Proof.Machine

/-- OPEN (R116): the connection starts from an empty buffer, also when it was open already. -/
def execOpOpen (s : State) : Result := .next { s with isOpen := true, residual := s.residual.clear }

/-- CLOSE (R117): the buffer is discarded, also the first part of a frame. -/
def execOpClose (s : State) : Result := .next { s with isOpen := false, residual := s.residual.clear }

/-- FEED (R110) of the chunk on port RX. -/
def execOpFeed (s : State) : Result := s.feedChunk s.rx

end Sys2Proof.Machine
end

