-- ==== Sys2Proof/Machine/Wire.lean ====
section
/-! DEFINITION. The wire rows: a frame of the row's shape arrives, as the chunk of one FEED (R174, R110; log entry 1).
A data frame (T rows) is what DECODE recognises; a remote frame (R rows) is noise to it (41_decoder.md R92). The
transmit direction of both is ENCODE's (40_encoder.md R80). -/

namespace Sys2Proof.Machine

/-- Row T0: a data frame with 0 data bytes arrives. -/
def execFrameT0 (id : IdDigits) (s : State) : Result :=
  s.receiveFrame ⟨false, id, []⟩

/-- Row T1: a data frame with 1 data byte arrives. -/
def execFrameT1 (id : IdDigits) (d0 : DataDigits) (s : State) : Result :=
  s.receiveFrame ⟨false, id, [d0]⟩

/-- Row T2: a data frame with 2 data bytes arrives. -/
def execFrameT2 (id : IdDigits) (d0 d1 : DataDigits) (s : State) : Result :=
  s.receiveFrame ⟨false, id, [d0, d1]⟩

/-- Row T3: a data frame with 3 data bytes arrives. -/
def execFrameT3 (id : IdDigits) (d0 d1 d2 : DataDigits) (s : State) : Result :=
  s.receiveFrame ⟨false, id, [d0, d1, d2]⟩

/-- Row T4: a data frame with 4 data bytes arrives. -/
def execFrameT4 (id : IdDigits) (d0 d1 d2 d3 : DataDigits) (s : State) : Result :=
  s.receiveFrame ⟨false, id, [d0, d1, d2, d3]⟩

/-- Row T5: a data frame with 5 data bytes arrives. -/
def execFrameT5 (id : IdDigits) (d0 d1 d2 d3 d4 : DataDigits) (s : State) : Result :=
  s.receiveFrame ⟨false, id, [d0, d1, d2, d3, d4]⟩

/-- Row T6: a data frame with 6 data bytes arrives. -/
def execFrameT6 (id : IdDigits) (d0 d1 d2 d3 d4 d5 : DataDigits) (s : State) : Result :=
  s.receiveFrame ⟨false, id, [d0, d1, d2, d3, d4, d5]⟩

/-- Row T7: a data frame with 7 data bytes arrives. -/
def execFrameT7 (id : IdDigits) (d0 d1 d2 d3 d4 d5 d6 : DataDigits) (s : State) : Result :=
  s.receiveFrame ⟨false, id, [d0, d1, d2, d3, d4, d5, d6]⟩

/-- Row T8: a data frame with 8 data bytes arrives. -/
def execFrameT8 (id : IdDigits) (d0 d1 d2 d3 d4 d5 d6 d7 : DataDigits) (s : State) : Result :=
  s.receiveFrame ⟨false, id, [d0, d1, d2, d3, d4, d5, d6, d7]⟩

/-- Row R0: a remote frame with 0 data bytes arrives. -/
def execFrameR0 (id : IdDigits) (s : State) : Result :=
  s.receiveFrame ⟨true, id, []⟩

/-- Row R1: a remote frame with 1 data byte arrives. -/
def execFrameR1 (id : IdDigits) (d0 : DataDigits) (s : State) : Result :=
  s.receiveFrame ⟨true, id, [d0]⟩

/-- Row R2: a remote frame with 2 data bytes arrives. -/
def execFrameR2 (id : IdDigits) (d0 d1 : DataDigits) (s : State) : Result :=
  s.receiveFrame ⟨true, id, [d0, d1]⟩

/-- Row R3: a remote frame with 3 data bytes arrives. -/
def execFrameR3 (id : IdDigits) (d0 d1 d2 : DataDigits) (s : State) : Result :=
  s.receiveFrame ⟨true, id, [d0, d1, d2]⟩

/-- Row R4: a remote frame with 4 data bytes arrives. -/
def execFrameR4 (id : IdDigits) (d0 d1 d2 d3 : DataDigits) (s : State) : Result :=
  s.receiveFrame ⟨true, id, [d0, d1, d2, d3]⟩

/-- Row R5: a remote frame with 5 data bytes arrives. -/
def execFrameR5 (id : IdDigits) (d0 d1 d2 d3 d4 : DataDigits) (s : State) : Result :=
  s.receiveFrame ⟨true, id, [d0, d1, d2, d3, d4]⟩

/-- Row R6: a remote frame with 6 data bytes arrives. -/
def execFrameR6 (id : IdDigits) (d0 d1 d2 d3 d4 d5 : DataDigits) (s : State) : Result :=
  s.receiveFrame ⟨true, id, [d0, d1, d2, d3, d4, d5]⟩

/-- Row R7: a remote frame with 7 data bytes arrives. -/
def execFrameR7 (id : IdDigits) (d0 d1 d2 d3 d4 d5 d6 : DataDigits) (s : State) : Result :=
  s.receiveFrame ⟨true, id, [d0, d1, d2, d3, d4, d5, d6]⟩

/-- Row R8: a remote frame with 8 data bytes arrives. -/
def execFrameR8 (id : IdDigits) (d0 d1 d2 d3 d4 d5 d6 d7 : DataDigits) (s : State) : Result :=
  s.receiveFrame ⟨true, id, [d0, d1, d2, d3, d4, d5, d6, d7]⟩

end Sys2Proof.Machine
end

