-- ==== Sys2Proof/Machine/Dispatch.lean ====
section
/-! DEFINITION. One arm per row of spec/opcode_table.json, each a direct call of its meaning. -/

namespace Sys2Proof.Machine

def exec (i : Instr) (s : State) : Host.Outcome State Fault Refusal :=
  match i with
  | .t0 id => Sys2Proof.Machine.execFrameT0 id s
  | .t1 id d0 => Sys2Proof.Machine.execFrameT1 id d0 s
  | .t2 id d0 d1 => Sys2Proof.Machine.execFrameT2 id d0 d1 s
  | .t3 id d0 d1 d2 => Sys2Proof.Machine.execFrameT3 id d0 d1 d2 s
  | .t4 id d0 d1 d2 d3 => Sys2Proof.Machine.execFrameT4 id d0 d1 d2 d3 s
  | .t5 id d0 d1 d2 d3 d4 => Sys2Proof.Machine.execFrameT5 id d0 d1 d2 d3 d4 s
  | .t6 id d0 d1 d2 d3 d4 d5 => Sys2Proof.Machine.execFrameT6 id d0 d1 d2 d3 d4 d5 s
  | .t7 id d0 d1 d2 d3 d4 d5 d6 => Sys2Proof.Machine.execFrameT7 id d0 d1 d2 d3 d4 d5 d6 s
  | .t8 id d0 d1 d2 d3 d4 d5 d6 d7 => Sys2Proof.Machine.execFrameT8 id d0 d1 d2 d3 d4 d5 d6 d7 s
  | .r0 id => Sys2Proof.Machine.execFrameR0 id s
  | .r1 id d0 => Sys2Proof.Machine.execFrameR1 id d0 s
  | .r2 id d0 d1 => Sys2Proof.Machine.execFrameR2 id d0 d1 s
  | .r3 id d0 d1 d2 => Sys2Proof.Machine.execFrameR3 id d0 d1 d2 s
  | .r4 id d0 d1 d2 d3 => Sys2Proof.Machine.execFrameR4 id d0 d1 d2 d3 s
  | .r5 id d0 d1 d2 d3 d4 => Sys2Proof.Machine.execFrameR5 id d0 d1 d2 d3 d4 s
  | .r6 id d0 d1 d2 d3 d4 d5 => Sys2Proof.Machine.execFrameR6 id d0 d1 d2 d3 d4 d5 s
  | .r7 id d0 d1 d2 d3 d4 d5 d6 => Sys2Proof.Machine.execFrameR7 id d0 d1 d2 d3 d4 d5 d6 s
  | .r8 id d0 d1 d2 d3 d4 d5 d6 d7 => Sys2Proof.Machine.execFrameR8 id d0 d1 d2 d3 d4 d5 d6 d7 s
  | .opOpen => Sys2Proof.Machine.execOpOpen s
  | .opClose => Sys2Proof.Machine.execOpClose s
  | .opFeed => Sys2Proof.Machine.execOpFeed s
  | .opEncode => Sys2Proof.Machine.execOpEncode s
  | .opDecode => Sys2Proof.Machine.execOpDecode s

end Sys2Proof.Machine
end

