-- ==== Sys2Proof/Machine/Fetch.lean ====
section
/-! DEFINITION. How the block takes the host's next request: the ports it drives and what the request selects
(30_encoding.md R70, R71; 70_reset_and_hazards.md R170, R174). -/

namespace Sys2Proof.Machine

/-- What a request selects: an instruction to run, a state reached without one, or a refusal. -/
inductive Fetched where
  | run (i : Instr) (s : State)
  | done (s : State)
  | refuse (r : Refusal)
deriving DecidableEq, Repr

/-- A command: the code on port CMD selects an operation, or none (R70, R71). -/
def fetchCommand (s : State) : Fetched :=
  match decodeCommand s.cmd with
  | .ok i => .run i s
  | .error .idleCode => .done s
  | .error _ => .refuse .reservedCommand

/-- A transport read: a chunk that is exactly one wire frame is that row's instruction, any other chunk is FEED's
operand as it stands (R174; log entry 1). -/
def fetchChunk (chunk : List Byte) (s : State) : Fetched :=
  match decodeWire chunk with
  | .ok i [] => .run i s
  | .ok _ (_ :: _) | .rejected _ => .run .opFeed s

/-- The code of FEED, which the host drives for a transport read (R70, R174). -/
def feedCode : BitVec 3 := 0b011#3

/-- One request, the ports driven first. -/
def fetchRequest (q : Request) (s : State) : Fetched :=
  match q with
  | .command code rx msgIn => fetchCommand (s.drive code rx msgIn)
  | .wireChunk chunk => fetchChunk chunk (s.drive feedCode chunk s.msgIn)
  | .reset => .done s.applyReset

/-- The next request in the host's order; with none the block holds its state and does nothing (60_exceptions.md R167,
log entry 21). -/
def State.fetch (s : State) : Fetched :=
  match s.pending with
  | [] => .done s
  | q :: rest => fetchRequest q { s with pending := rest }

/-- The request that presents an instruction's bytes: a command code, with the operand ports as they stand, or a chunk
on the wire. -/
def requestOfBytes (bytes : List Byte) (s : State) : Request :=
  match bytes with
  | [] => .wireChunk []
  | b :: bs =>
      if b.toNat < 8 then .command (BitVec.ofNat 3 b.toNat) s.rx s.msgIn else .wireChunk (b :: bs)

/-- A request put before those already pending. -/
def State.issue (q : Request) (s : State) : State := { s with pending := q :: s.pending }

end Sys2Proof.Machine
end

