-- ==== Sys2Proof/Machine/Step.lean ====
section
/-! DEFINITION. One step: the host's next request, if there is one, run to its end (00_scope.md R5: each operation is
one atomic, untimed step). -/

namespace Sys2Proof.Machine

/-- One step of the block. -/
def step (s : State) : Host.Outcome State Fault Refusal :=
  match s.fetch with
  | .run i s' => exec i s'
  | .done s' => .next s'
  | .refuse r => .refused r

/-- `s` with the instruction of a table word as the host's next request, so that the next step runs it: a command code
with the operand ports as they stand, or a frame arriving on the wire (log entry 11). -/
def State.withFetchWord (s : State) (nbits w : Nat) : State := s.issue (requestOfBytes (tableBytes nbits w) s)

end Sys2Proof.Machine
end

