-- ==== Sys2Proof/Safety.lean ====
section
/-! DEFINITION. The terms claims are stated in: what a safe state is (10_state.md R25), when an operation is defined
(42_reassembler.md R110), the frame layout (30_encoding.md R51), the reassembler's loop as a relation (R110), and the
host feeding a stream chunk by chunk (43_properties.md, its notation `feed*`). -/

namespace Sys2Proof.Machine

/-- No byte of the sequence is the marker 0x74. -/
abbrev markerFree (w : List Byte) : Prop := dataMarker ∉ w

/-- FEED of a chunk is defined (R110): the connection is open and the chunk no longer than MAX_CHUNK. -/
abbrev State.accepts (s : State) (chunk : List Byte) : Prop :=
  s.isOpen = true ∧ ∀ n, s.config.maxChunk = some n → chunk.length ≤ n

/-- What 10_state.md R25 says of the state between operations. -/
structure State.Inv (s : State) : Prop where
  /-- R25 (a) -/
  bounded : s.residual.length ≤ s.config.ceiling
  /-- R25 (b) -/
  stalled : decodeWindow s.residual = .incomplete
  /-- R25, its last sentence -/
  closedEmpty : s.isOpen = false → s.residual = []

/-- `feed*` starts here: open, with an empty buffer. -/
abbrev State.fresh (s : State) : Prop := s.isOpen = true ∧ s.residual = []

/-- A valid header stands at index 0 of the window and announces `len` data bytes, at most 8 (R93, R95). -/
structure HeaderAt (w : List Byte) (len : Nat) : Prop where
  marker : w[0]? = some dataMarker
  digits : ∀ p, 1 ≤ p → p ≤ 4 → hexAt w p = true
  length : lengthAt w = len
  inRange : len ≤ 8

/-- The data frame of R51 with `n` data bytes, position by position. -/
structure DataFrameLayout (w : List Byte) (n : Nat) : Prop where
  size : w.length = 6 + 2 * n
  marker : w[0]? = some 0x74#8
  identifier : ∀ p, 1 ≤ p → p ≤ 3 → hexAt w p = true
  lengthDigit : w[4]? = some (BitVec.ofNat 8 (0x30 + n))
  inRange : n ≤ 8
  data : ∀ p, 5 ≤ p → p < 5 + 2 * n → hexAt w p = true
  terminator : w[5 + 2 * n]? = some 0x0D#8

/-- One run of the reassembler's loop, from a buffer to the buffer it leaves, with the messages and the conditions in
order: the three arms of R110's pseudocode, the skips classified as R151 classifies them. -/
inductive LoopRun : List Byte → List CanMessage → List Condition → List Byte → Prop where
  /-- R119 -/
  | stop (r : List Byte) : decodeWindow r = .incomplete → LoopRun r [] [.incompleteInput] r
  /-- R112 with R153: noise before the first marker -/
  | noise (r r' : List Byte) (out : List CanMessage) (evs : List Condition) (k : Nat) :
      decodeWindow r = .skipPrefix k → r[0]? ≠ some dataMarker → LoopRun (r.drop k) out evs r' →
      LoopRun r out (.desynchronized k :: evs) r'
  /-- R112 with R155: a malformed frame -/
  | malformed (r r' : List Byte) (out : List CanMessage) (evs : List Condition) (p : Nat) :
      decodeWindow r = .skipPrefix p → r[0]? = some dataMarker → LoopRun (r.drop p) out evs r' →
      LoopRun r out (.malformedFrame p :: evs) r'
  /-- R113 -/
  | frame (r r' : List Byte) (out : List CanMessage) (evs : List Condition) (m : CanMessage) (c : Nat) :
      decodeWindow r = .frame m c → LoopRun (r.drop c) out evs r' →
      LoopRun r (m :: out) evs r'

/-- FEED of one chunk: the host drives RX with it and issues the operation. -/
def State.feed (s : State) (chunk : List Byte) : Result := exec .opFeed { s with rx := chunk }

/-- `feed*`: the chunks fed one after the other; the concatenated outputs and the state afterwards, nothing if a FEED
has no next state. -/
def feedAll : List (List Byte) → State → Option (List CanMessage × State)
  | [], s => some ([], s)
  | c :: cs, s =>
      match s.feed c with
      | .next t => (feedAll cs t).map (fun p => (t.msgOut.getD [] ++ p.1, p.2))
      | .fault _ => none
      | .refused _ => none

/-- Two states that agree on everything but the ghost list. -/
abbrev State.sameButEvents (s t : State) : Prop := { s with events := [] } = { t with events := [] }

end Sys2Proof.Machine
end

