-- ==== Sys2Proof/Certificates/Slice0/Obligations.lean ====
section
/-! DEFINITION. The statements for the provers, in the order of OBLIGATIONS.json. Each docstring names the rule of
spec/ it formalises. A statement marked stated says only what its rule says; what the other ports and fields do is in
the statements marked derived (log entries 1, 2, 3, 5 and 10). -/

open Sys2Proof Sys2Proof.Machine

/-! ### Digits and structural bytes -/

/-- 30_encoding.md R55: the hex digits are exactly these 22 bytes. R57: the digit ENCODE emits is upper case, and
`hexval(hexchar(v)) = v`. -/
def Obligations.HexDigitsInAndOut : Prop :=
  (∀ b : Byte, isHex b = true ↔ b ∈ (
    [0x30, 0x31, 0x32, 0x33, 0x34, 0x35, 0x36, 0x37, 0x38, 0x39, 0x41, 0x42, 0x43, 0x44, 0x45, 0x46,
     0x61, 0x62, 0x63, 0x64, 0x65, 0x66] : List Byte)) ∧
  (∀ v, v ≤ 9 → hexChar v = BitVec.ofNat 8 (0x30 + v)) ∧
  (∀ v, 10 ≤ v → v ≤ 15 → hexChar v = BitVec.ofNat 8 (0x41 + (v - 10))) ∧
  (∀ v, v ≤ 15 → hexVal (hexChar v) = v)

/-- 30_encoding.md R56: the values of the digits, and a window in mixed case decodes as its upper-case form does. -/
def Obligations.HexValuesIgnoreCase : Prop :=
  (∀ v, v ≤ 9 → hexVal (BitVec.ofNat 8 (0x30 + v)) = v) ∧
  (∀ v, v ≤ 5 → hexVal (BitVec.ofNat 8 (0x41 + v)) = 10 + v ∧ hexVal (BitVec.ofNat 8 (0x61 + v)) = 10 + v) ∧
  (∀ s : State, ∃ t u, exec .opDecode s = .next t ∧ exec .opDecode { s with rx := s.rx.map upperHex } = .next u ∧
    t.outcome = u.outcome)

/-- 30_encoding.md R58: marker, terminator and remote marker are no hex digits and differ; 'T' is no marker; a
well-formed frame holds its marker once, at index 0, and the terminator once, at its last index. -/
def Obligations.StructuralBytesStandOnceInAFrame : Prop :=
  (isHex 0x74 = false ∧ isHex 0x0D = false ∧ isHex 0x72 = false) ∧
  ((0x74 : Byte) ≠ 0x0D ∧ (0x72 : Byte) ≠ 0x74 ∧ (0x72 : Byte) ≠ 0x0D) ∧
  (∀ w : List Byte, (∀ b ∈ w, b = 0x54#8 ∨ isHex b = true) → decodeWindow w = .incomplete) ∧
  (∀ w n, DataFrameLayout w n →
    (∀ p, w[p]? = some 0x74#8 ↔ p = 0) ∧ (∀ p, w[p]? = some 0x0D#8 ↔ p = w.length - 1))

/-! ### The instruction encoding -/

/-- 30_encoding.md sections 2 and 6: reading back what the encoder writes gives the instruction and leaves the bytes
after it, for every row and every operand the encoding admits. -/
def Obligations.EncodedInstructionDecodesBack : Prop :=
  ∀ (i : Instr) (rest : List Byte), i.wf = true → decode (encode i ++ rest) = .ok i rest

/-- 30_encoding.md sections 2 and 6: what the decoder reads is well formed and its encoding is the bytes read. -/
def Obligations.DecodedBytesEncodeBack : Prop :=
  ∀ (bs rest : List Byte) (i : Instr), decode bs = .ok i rest → i.wf = true ∧ encode i ++ rest = bs

/-- 30_encoding.md R51, R52 and R54: the bytes of every wire row, position by position. -/
def Obligations.WireRowsHaveTheTableLayout : Prop :=
  ∀ (i : Instr) (f : WireFrame), i.frame? = some f → i.wf = true →
    (f.remote = false → DataFrameLayout (encode i) f.data.length) ∧
    (f.remote = true → ∃ w, encode i = 0x72#8 :: w ∧ DataFrameLayout (0x74#8 :: w) f.data.length)

/-- Frames written out from the encodings of 30_encoding.md R51, R52 and R54 and the command codes of R70, with the idle
and the reserved codes of R71 and illegal frames of R61. A sanity statement. The model's, not the spec's: that a code is
one byte below 8, so that `[0x01]` is OPEN and 'T' is no instruction (log entry 9, DESIGN CHOICE); that a digit keeps
its letter case, the flag in each operand (log entry 8, DEDUCED); the rejections' names. -/
def Obligations.SpecWordsDecodeToTheirRows : Prop :=
  decode [0x01] = .ok .opOpen [] ∧ decode [0x02] = .ok .opClose [] ∧ decode [0x03] = .ok .opFeed [] ∧
  decode [0x04] = .ok .opEncode [] ∧ decode [0x05] = .ok .opDecode [] ∧
  decode [0x00] = .rejected .idleCode ∧ decode [0x06] = .rejected .reservedCode ∧
  decode [0x07] = .rejected .reservedCode ∧
  decode [0x74, 0x31, 0x32, 0x33, 0x30, 0x0D] = .ok (.t0 ⟨⟨1, false⟩, ⟨2, false⟩, ⟨3, false⟩⟩) [] ∧
  decode [0x74, 0x30, 0x30, 0x41, 0x31, 0x35, 0x66, 0x0D, 0x99] =
    .ok (.t1 ⟨⟨0, false⟩, ⟨0, false⟩, ⟨10, false⟩⟩ ⟨⟨5, false⟩, ⟨15, true⟩⟩) [0x99] ∧
  decode [0x72, 0x31, 0x32, 0x33, 0x30, 0x0D] = .ok (.r0 ⟨⟨1, false⟩, ⟨2, false⟩, ⟨3, false⟩⟩) [] ∧
  decode [0x54, 0x31, 0x32, 0x33, 0x30, 0x0D] = .rejected .notAnInstruction ∧
  decode [0x74, 0x31, 0x32, 0x33, 0x39, 0x0D] = .rejected .lengthDigit ∧
  decode [0x74, 0x31, 0x67, 0x33, 0x30, 0x0D] = .rejected .headerDigit ∧
  decode [0x74, 0x31, 0x32, 0x33, 0x30, 0x78] = .rejected .noTerminator

/-! ### The step -/

/-- 30_encoding.md R70, 00_scope.md R5, 70_reset_and_hazards.md R174: a pending command whose code decodes to an
instruction is that instruction run on the driven ports; a chunk that is exactly one wire frame is run as that row;
with nothing pending the step changes nothing (60_exceptions.md R167). How a request stands in State, and that an
arriving frame is the row's instruction, are the model's (log entries 1, 2 and 21). -/
def Obligations.StepRunsTheInstructionDecoded : Prop :=
  ∀ s : State,
    (∀ (c : BitVec 3) (rx : List Byte) (m : CanMessage) (rest : List Request) (i : Instr),
      s.pending = .command c rx m :: rest → decode [c.setWidth 8] = .ok i [] →
      step s = exec i { s with cmd := c, rx := rx, msgIn := m, pending := rest }) ∧
    (∀ (chunk : List Byte) (rest : List Request) (i : Instr) (f : WireFrame),
      s.pending = .wireChunk chunk :: rest → decode chunk = .ok i [] → i.frame? = some f →
      step s = exec i { s with cmd := 0b011#3, rx := chunk, pending := rest }) ∧
    (s.pending = [] → step s = .next s)

/-- 70_reset_and_hazards.md R174: whatever a transport read delivers, the step is FEED with exactly those bytes,
whether they make a frame or not (log entries 1 and 2). -/
def Obligations.ArrivingChunkIsFeed : Prop :=
  ∀ (s : State) (chunk : List Byte),
    step (s.issue (.wireChunk chunk)) = step (s.issue (.command 0b011#3 chunk s.msgIn))

/-- 30_encoding.md R71: code 000 changes no state and produces no output, codes 110 and 111 are refused. -/
def Obligations.IdleAndReservedCodes : Prop :=
  ∀ (s : State) (rx : List Byte) (m : CanMessage),
    (∃ t, step (s.issue (.command 0b000#3 rx m)) = .next t ∧ t.isOpen = s.isOpen ∧ t.residual = s.residual ∧
      t.tx = s.tx ∧ t.msgOut = s.msgOut ∧ t.outcome = s.outcome) ∧
    step (s.issue (.command 0b110#3 rx m)) = .refused .reservedCommand ∧
    step (s.issue (.command 0b111#3 rx m)) = .refused .reservedCommand

/-! ### Reset, OPEN, CLOSE -/

/-- 70_reset_and_hazards.md R170 and 10_state.md R24: RESET, in any state, closes the block, discards the buffer, keeps
the configuration and leaves the result ports carrying nothing, as a block just built has them; the columns of R24 for
OPEN and CLOSE. -/
def Obligations.ValuesAfterResetOpenClose : Prop :=
  (∀ s : State,
    (∃ t, step (s.issue .reset) = .next t ∧ t.isOpen = false ∧ t.residual = [] ∧ t.config = s.config ∧
      t.tx = none ∧ t.msgOut = none ∧ t.outcome = none) ∧
    (∃ t, exec .opOpen s = .next t ∧ t.isOpen = true ∧ t.residual = [] ∧ t.config = s.config ∧
      t.tx = s.tx ∧ t.msgOut = s.msgOut ∧ t.outcome = s.outcome) ∧
    (∃ t, exec .opClose s = .next t ∧ t.isOpen = false ∧ t.residual = [] ∧ t.config = s.config ∧
      t.tx = s.tx ∧ t.msgOut = s.msgOut ∧ t.outcome = s.outcome)) ∧
  (State.reset.isOpen = false ∧ State.reset.residual = [] ∧ State.reset.tx = none ∧ State.reset.msgOut = none ∧
    State.reset.outcome = none)

/-- 42_reassembler.md R116: OPEN, also when open already, starts from an empty buffer. R117: CLOSE discards the buffer
and closes; while closed, with the buffer empty as R25 has it, it changes nothing. Neither has an output or raises a
condition. -/
def Obligations.OpenAndCloseTransitions : Prop :=
  (∀ s : State, ∃ t, exec .opOpen s = .next t ∧ t.residual = [] ∧ t.isOpen = true ∧
    t.tx = s.tx ∧ t.msgOut = s.msgOut ∧ t.outcome = s.outcome ∧ t.events = s.events) ∧
  (∀ s : State, ∃ t, exec .opClose s = .next t ∧ t.residual = [] ∧ t.isOpen = false ∧
    t.tx = s.tx ∧ t.msgOut = s.msgOut ∧ t.outcome = s.outcome ∧ t.events = s.events) ∧
  (∀ s : State, s.Inv → s.isOpen = false → exec .opClose s = .next s)

/-- The frame of OPEN and CLOSE (10_state.md R24, 20_memory.md R33): no index of the buffer holds a byte afterwards,
and nothing but `open` and the buffer changes. The result ports are R24's, the rest is the model's (log entry 3). -/
def Obligations.OpenAndCloseFrame : Prop :=
  ∀ (i : Instr) (s t : State), i = .opOpen ∨ i = .opClose → exec i s = .next t →
    (∀ a, t.residual.read a = none) ∧ t = { s with isOpen := t.isOpen, residual := [] }

/-- 70_reset_and_hazards.md R171: after RESET, ENCODE and DECODE are usable at once, FEED is refused until OPEN. -/
def Obligations.AfterResetOnlyFeedWaitsForOpen : Prop :=
  ∀ (s r : State) (chunk : List Byte) (m : CanMessage), step (s.issue .reset) = .next r →
    (m.legal → ∃ t, exec .opEncode { r with msgIn := m } = .next t) ∧
    (∃ t, exec .opDecode { r with rx := chunk } = .next t) ∧
    exec .opFeed { r with rx := chunk } = .refused .feedWhileClosed

/-! ### ENCODE -/

/-- 40_encoder.md R80: the bytes ENCODE puts on TX, step by step, for every legal message, open or not; the persistent
state is not written. -/
def Obligations.EncodeEmitsTheFrameBytes : Prop :=
  ∀ s : State, s.msgIn.length.toNat ≤ 8 →
    ∃ t, exec .opEncode s = .next t ∧ t.isOpen = s.isOpen ∧ t.residual = s.residual ∧ t.events = s.events ∧
      t.tx = some (
        [if s.msgIn.isRemoteRequest then 0x72#8 else 0x74#8]
        ++ [hexChar (s.msgIn.identifier.toNat / 256), hexChar (s.msgIn.identifier.toNat / 16 % 16),
            hexChar (s.msgIn.identifier.toNat % 16)]
        ++ [hexChar s.msgIn.length.toNat]
        ++ (List.range s.msgIn.length.toNat).flatMap (fun j =>
            [hexChar ((dataEntry s.msgIn.data j).toNat / 16), hexChar ((dataEntry s.msgIn.data j).toNat % 16)])
        ++ [0x0D#8])

/-- 40_encoder.md R84: a length of 9 to 15 is refused. -/
def Obligations.EncodeRefusesALengthAboveEight : Prop :=
  ∀ s : State, 8 < s.msgIn.length.toNat → exec .opEncode s = .refused .encodeLengthOutOfRange

/-- 40_encoder.md R82: the output's length, its first and last byte, the 16 bytes between them, and that it depends on
the meaningful fields alone. -/
def Obligations.EncodeOutputShape : Prop :=
  ∀ s t : State, exec .opEncode s = .next t → ∃ out, t.tx = some out ∧
    out.length = 6 + 2 * s.msgIn.length.toNat ∧
    (out[0]? = some 0x74#8 ∨ out[0]? = some 0x72#8) ∧ out[out.length - 1]? = some 0x0D#8 ∧
    (∀ p b, 0 < p → p < out.length - 1 → out[p]? = some b → ∃ v, v ≤ 15 ∧ b = hexChar v) ∧
    (∀ u : State, u.msgIn.same s.msgIn → ∃ v, exec .opEncode u = .next v ∧ v.tx = some out)

/-- 30_encoding.md R52 and R72, the transmit direction of the wire rows: what ENCODE emits is the word of the row with
that marker and that many data bytes, a remote frame with its data digits (R85), carrying the message. -/
def Obligations.EncodeEmitsAWireRow : Prop :=
  ∀ s : State, s.msgIn.legal → ∃ t i f, exec .opEncode s = .next t ∧ i.frame? = some f ∧ i.wf = true ∧
    t.tx = some (encode i) ∧ f.remote = s.msgIn.isRemoteRequest ∧ f.data.length = s.msgIn.length.toNat ∧
    (frameMessage f).same s.msgIn

/-- The frame of ENCODE and DECODE (40_encoder.md R80, 41_decoder.md R90), and R101: DECODE answers on every window, in
any state. Every index of the buffer reads as before and nothing changes but the operation's own result port. That the
other ports keep what they carry is the model's (log entry 3). -/
def Obligations.CodecFrame : Prop :=
  ∀ s t : State,
    (exec .opEncode s = .next t → (∀ a, t.residual.read a = s.residual.read a) ∧ t = { s with tx := t.tx }) ∧
    (∃ o, exec .opDecode s = .next { s with outcome := some o }) ∧
    (exec .opDecode s = .next t → ∀ a, t.residual.read a = s.residual.read a)

/-! ### DECODE -/

/-- 41_decoder.md R91: a window shorter than 5 bytes, or without a marker, is `Incomplete`. -/
def Obligations.DecodeShortOrUnmarkedWindow : Prop :=
  ∀ s : State, (s.rx.length < 5 ∨ markerFree s.rx) →
    ∃ t, exec .opDecode s = .next t ∧ t.outcome = some .incomplete

/-- 41_decoder.md R92: the first marker at index `k > 0` gives `SkipPrefix(k)`, whatever stands behind it. -/
def Obligations.DecodeSkipsNoiseBeforeTheMarker : Prop :=
  ∀ (s : State) (k : Nat), 5 ≤ s.rx.length → 0 < k → s.rx[k]? = some 0x74#8 → markerFree (s.rx.take k) →
    k ≤ s.rx.length - 1 ∧ ∃ t, exec .opDecode s = .next t ∧ t.outcome = some (.skipPrefix k)

/-- 41_decoder.md R94: the least header index 1 to 4 without a hex digit is skipped to. -/
def Obligations.DecodeHeaderDigitFailure : Prop :=
  ∀ (s : State) (p : Nat), 5 ≤ s.rx.length → s.rx[0]? = some 0x74#8 → 1 ≤ p → p ≤ 4 →
    (∀ q, 1 ≤ q → q < p → hexAt s.rx q = true) → hexAt s.rx p = false →
    ∃ t, exec .opDecode s = .next t ∧ t.outcome = some (.skipPrefix p)

/-- 41_decoder.md R95: a length digit of 9 to 15 gives `SkipPrefix(4)` whatever the window's length, and no message has
a length above 8. -/
def Obligations.DecodeLengthAboveEight : Prop :=
  (∀ s : State, 5 ≤ s.rx.length → s.rx[0]? = some 0x74#8 → (∀ p, 1 ≤ p → p ≤ 4 → hexAt s.rx p = true) →
    8 < hexValAt s.rx 4 → ∃ t, exec .opDecode s = .next t ∧ t.outcome = some (.skipPrefix 4)) ∧
  (∀ (s t : State) (m : CanMessage) (c : Nat), exec .opDecode s = .next t → t.outcome = some (.frame m c) →
    m.length.toNat ≤ 8)

/-- 41_decoder.md R96: until `2 * len + 5` bytes are present the outcome is `Incomplete`, whatever the data bytes. -/
def Obligations.DecodeWaitsForTheDeclaredBytes : Prop :=
  ∀ (s : State) (len : Nat), 5 ≤ s.rx.length → HeaderAt s.rx len → s.rx.length < 2 * len + 5 →
    ∃ t, exec .opDecode s = .next t ∧ t.outcome = some .incomplete

/-- 41_decoder.md R97: the least data position without a hex digit is skipped to; where a frame is decoded, each data
byte is its two digits, high nibble first. -/
def Obligations.DecodeDataDigitFailure : Prop :=
  (∀ (s : State) (len p : Nat), HeaderAt s.rx len → 2 * len + 5 ≤ s.rx.length → 5 ≤ p → p ≤ 2 * len + 4 →
    (∀ q, 5 ≤ q → q < p → hexAt s.rx q = true) → hexAt s.rx p = false →
    ∃ t, exec .opDecode s = .next t ∧ t.outcome = some (.skipPrefix p)) ∧
  (∀ (s t : State) (m : CanMessage) (c j : Nat), exec .opDecode s = .next t → t.outcome = some (.frame m c) →
    j < m.length.toNat →
    hexAt s.rx (5 + 2 * j) = true ∧ hexAt s.rx (6 + 2 * j) = true ∧
    (dataEntry m.data j).toNat = hexValAt s.rx (5 + 2 * j) * 16 + hexValAt s.rx (6 + 2 * j))

/-- 41_decoder.md R98: at the terminator position nothing yet is `Incomplete`, another byte is skipped to, 0x0D ends a
frame. -/
def Obligations.DecodeTerminatorPosition : Prop :=
  ∀ (s : State) (len : Nat), HeaderAt s.rx len → (∀ p, 5 ≤ p → p < 5 + 2 * len → hexAt s.rx p = true) →
    (s.rx.length = 5 + 2 * len → ∃ t, exec .opDecode s = .next t ∧ t.outcome = some .incomplete) ∧
    (∀ b, s.rx[5 + 2 * len]? = some b → b ≠ 0x0D#8 →
      ∃ t, exec .opDecode s = .next t ∧ t.outcome = some (.skipPrefix (5 + 2 * len))) ∧
    (s.rx[5 + 2 * len]? = some 0x0D#8 →
      ∃ t m, exec .opDecode s = .next t ∧ t.outcome = some (.frame m (6 + 2 * len)))

/-- 41_decoder.md R99 with R93: the fields of a decoded message, the entries past its length 0x00. -/
def Obligations.DecodedMessageFields : Prop :=
  ∀ (s t : State) (m : CanMessage) (c : Nat), exec .opDecode s = .next t → t.outcome = some (.frame m c) →
    m.identifier.toNat = hexValAt s.rx 1 * 256 + hexValAt s.rx 2 * 16 + hexValAt s.rx 3 ∧
    m.length.toNat = hexValAt s.rx 4 ∧
    (∀ j, j < m.length.toNat →
      (dataEntry m.data j).toNat = hexValAt s.rx (5 + 2 * j) * 16 + hexValAt s.rx (6 + 2 * j)) ∧
    (∀ j, m.length.toNat ≤ j → j ≤ 7 → dataEntry m.data j = 0x00#8) ∧
    m.isRemoteRequest = false ∧ c = 6 + 2 * m.length.toNat

/-- 41_decoder.md R100: exactly when each outcome is returned. -/
def Obligations.DecodeOutcomesExactly : Prop :=
  ∀ w : List Byte,
    (decodeWindow w = .incomplete ↔
      w.length < 5 ∨ (5 ≤ w.length ∧ markerFree w) ∨
      (∃ len, 5 ≤ w.length ∧ HeaderAt w len ∧ w.length < 2 * len + 5) ∨
      (∃ len, HeaderAt w len ∧ w.length = 2 * len + 5 ∧ ∀ p, 5 ≤ p → p ≤ 2 * len + 4 → hexAt w p = true)) ∧
    (∀ n, decodeWindow w = .skipPrefix n ↔
      5 ≤ w.length ∧
      ((0 < n ∧ w[n]? = some 0x74#8 ∧ markerFree (w.take n)) ∨
       (w[0]? = some 0x74#8 ∧ 1 ≤ n ∧ n ≤ 4 ∧ (∀ q, 1 ≤ q → q < n → hexAt w q = true) ∧ hexAt w n = false) ∨
       (w[0]? = some 0x74#8 ∧ n = 4 ∧ (∀ q, 1 ≤ q → q ≤ 4 → hexAt w q = true) ∧ 8 < hexValAt w 4) ∨
       (∃ len, HeaderAt w len ∧ 2 * len + 5 ≤ w.length ∧ 5 ≤ n ∧ n ≤ 2 * len + 4 ∧
         (∀ q, 5 ≤ q → q < n → hexAt w q = true) ∧ hexAt w n = false) ∨
       (∃ len b, HeaderAt w len ∧ n = 2 * len + 5 ∧ (∀ q, 5 ≤ q → q < n → hexAt w q = true) ∧
         w[n]? = some b ∧ b ≠ 0x0D#8))) ∧
    (∀ n, decodeWindow w = .skipPrefix n → 1 ≤ n ∧ n ≤ w.length - 1) ∧
    (∀ c, (∃ m, decodeWindow w = .frame m c) ↔
      ∃ n, c = 6 + 2 * n ∧ c ≤ w.length ∧ DataFrameLayout (w.take c) n) ∧
    (∀ m c, decodeWindow w = .frame m c →
      c = 6 + 2 * m.length.toNat ∧ m.identifier.toNat = identifierAt w ∧ m.length.toNat = lengthAt w ∧
      ∀ j, j < m.length.toNat → dataEntry m.data j = dataAt w j)

/-- 41_decoder.md R102: a decision other than `Incomplete` is the same on every extension of the window. -/
def Obligations.DecisionsArePrefixStable : Prop :=
  ∀ w q : List Byte, decodeWindow w ≠ .incomplete → decodeWindow (w ++ q) = decodeWindow w

/-- 30_encoding.md R72: DECODE accepts exactly the windows that begin with a T row, and its message is the row's; an R
row it never matches (41_decoder.md R92). -/
def Obligations.DecodeAcceptsExactlyTheDataRows : Prop :=
  ∀ (w : List Byte) (m : CanMessage) (c : Nat),
    decodeWindow w = .frame m c ↔
      ∃ i f rest, decode w = .ok i rest ∧ i.frame? = some f ∧ f.remote = false ∧
        frameMessage f = m ∧ c = w.length - rest.length

/-! ### FEED -/

/-- 42_reassembler.md R110 with R111, R112, R113, R114 and R119: an accepted FEED answers a next state, that of the
loop run on the joined buffer and of the bound after it. -/
def Obligations.FeedRunsTheLoopAndTheBound : Prop :=
  ∀ s : State, s.accepts s.rx → ∃ t out evs r,
    LoopRun (s.residual ++ s.rx) out evs r ∧ exec .opFeed s = .next t ∧
    t.isOpen = true ∧ t.msgOut = some out ∧
    t.residual = (if s.config.ceiling < r.length then [] else r)

/-- 42_reassembler.md R118: FEED while closed, or with a chunk longer than MAX_CHUNK, is refused. -/
def Obligations.FeedRefusals : Prop :=
  ∀ s : State,
    (s.isOpen = false → exec .opFeed s = .refused .feedWhileClosed) ∧
    (∀ n, s.isOpen = true → s.config.maxChunk = some n → n < s.rx.length →
      exec .opFeed s = .refused .chunkTooLong)

/-- 42_reassembler.md R115: the loop always ends, within `L - 3` attempts for `L >= 4` and in exactly one for `L <= 4`,
with at most `L / 6` messages. Each attempt gives one message or raises one condition. -/
def Obligations.LoopEndsWithinItsBound : Prop :=
  (∀ s : State, s.accepts s.rx → ∃ t out evs r, exec .opFeed s = .next t ∧ t.msgOut = some out ∧
    LoopRun (s.residual ++ s.rx) out evs r) ∧
  (∀ (r r' : List Byte) (out : List CanMessage) (evs : List Condition), LoopRun r out evs r' →
    (4 ≤ r.length → out.length + evs.length ≤ r.length - 3) ∧
    (r.length ≤ 4 → out.length + evs.length = 1) ∧
    out.length ≤ r.length / 6)

/-- 42_reassembler.md R120: `FEED []` is legal and leaves the buffer as it is. -/
def Obligations.EmptyChunkChangesNothing : Prop :=
  ∀ s : State, s.Inv → s.isOpen = true → s.rx = [] →
    ∃ t, exec .opFeed s = .next t ∧ t.msgOut = some [] ∧ t.residual = s.residual ∧ t.isOpen = true

/-- The frame of FEED and of the eighteen wire rows (42_reassembler.md R110, "`open` is not written"): only the buffer,
MSG_OUT and the ghost list change, and the ghost list only grows. R110 speaks of FEED; that a wire row's arrival is FEED
of its bytes is the model's (70_reset_and_hazards.md R174, log entry 1, DEDUCED), as are TX and OUTCOME keeping what they
carry (log entry 3, DEDUCED, unsafe) and the ghost list (log entry 5). -/
def Obligations.FeedAndWireRowFrame : Prop :=
  ∀ (i : Instr) (s t : State), i = .opFeed ∨ i.frame?.isSome = true → exec i s = .next t →
    t = { s with residual := t.residual, msgOut := t.msgOut, events := t.events } ∧ s.events <+: t.events

/-- 60_exceptions.md R151, R152 and R156: the ghost list of one FEED (log entry 5) is that of its loop, in which
`IncompleteInput` is raised exactly once, after every skip, and then `BufferOverflow` exactly when the bound clears. -/
def Obligations.ConditionsOfOneFeed : Prop :=
  ∀ s t : State, exec .opFeed s = .next t → ∃ out evs r,
    LoopRun (s.residual ++ s.rx) out (evs ++ [.incompleteInput]) r ∧
    (∀ e ∈ evs, (∃ k, 1 ≤ k ∧ e = .desynchronized k) ∨ (∃ p, 1 ≤ p ∧ p ≤ 21 ∧ e = .malformedFrame p)) ∧
    t.events = s.events ++ evs ++ [.incompleteInput]
      ++ (if s.config.ceiling < r.length then [.bufferOverflow r.length] else [])

/-- 42_reassembler.md R125: with a legal ceiling the bound clears marker-free bytes only. -/
def Obligations.BoundClearsNoiseOnly : Prop :=
  ∀ (s : State) (out : List CanMessage) (evs : List Condition) (r : List Byte), s.config.legal →
    LoopRun (s.residual ++ s.rx) out evs r → s.config.ceiling < r.length → markerFree r

/-- 70_reset_and_hazards.md R177: a truncated frame at the head of the buffer holds back what stands behind it until
`2 * len + 5` bytes are present; nothing is lost meanwhile. -/
def Obligations.TruncatedFrameHoldsBack : Prop :=
  ∀ (s : State) (len : Nat), s.config.legal → s.accepts s.rx → 5 ≤ (s.residual ++ s.rx).length →
    HeaderAt (s.residual ++ s.rx) len → (s.residual ++ s.rx).length < 2 * len + 5 →
    ∃ t, exec .opFeed s = .next t ∧ t.msgOut = some [] ∧ t.residual = s.residual ++ s.rx

/-- 70_reset_and_hazards.md R178: marker-free bytes, and any buffer shorter than 5 bytes, stay until the bound. -/
def Obligations.NoiseIsRetained : Prop :=
  ∀ s : State, s.accepts s.rx → (markerFree (s.residual ++ s.rx) ∨ (s.residual ++ s.rx).length < 5) →
    ∃ t, exec .opFeed s = .next t ∧ t.msgOut = some [] ∧
      t.residual = (if s.config.ceiling < (s.residual ++ s.rx).length then [] else s.residual ++ s.rx)

/-- 41_decoder.md R95 and R99, 10_state.md R13: every message FEED or a wire row delivers is a legal data message with
0x00 past its length (log entry 19). The rules speak of DECODE and FEED; that a wire row delivers what FEED of its bytes
does is the model's (70_reset_and_hazards.md R174, log entry 1, DEDUCED). -/
def Obligations.DeliveredMessagesAreDataMessages : Prop :=
  ∀ (i : Instr) (s t : State) (out : List CanMessage), i = .opFeed ∨ i.frame?.isSome = true →
    exec i s = .next t → t.msgOut = some out →
    ∀ m ∈ out, m.length.toNat ≤ 8 ∧ m.isRemoteRequest = false ∧
      ∀ j, m.length.toNat ≤ j → j ≤ 7 → dataEntry m.data j = 0x00#8

/-- 43_properties.md R138: a skip or a frame removes no marker that does not stand at index 0. -/
def Obligations.NoMarkerIsSkippedUnexamined : Prop :=
  ∀ (w : List Byte) (n : Nat), (decodeWindow w = .skipPrefix n ∨ ∃ m, decodeWindow w = .frame m n) →
    ∀ p, 1 ≤ p → p < n → w[p]? ≠ some 0x74#8

/-! ### The wire rows -/

/-- The eighteen wire rows T0 to T8 and R0 to R8 (70_reset_and_hazards.md R174, log entry 1): the arrival of a frame is
FEED of its bytes, with its refusals, whatever the buffer holds. -/
def Obligations.WireRowIsFeedOfItsBytes : Prop :=
  ∀ (i : Instr) (f : WireFrame) (s : State), i.frame? = some f →
    (s.accepts (encode i) → ∃ t u, exec i s = .next t ∧ s.feed (encode i) = .next u ∧ t = { u with rx := s.rx }) ∧
    (s.isOpen = false → exec i s = .refused .feedWhileClosed) ∧
    (∀ n, s.isOpen = true → s.config.maxChunk = some n → n < (encode i).length → exec i s = .refused .chunkTooLong)

/-- The rows T0 to T8 (43_properties.md R134, 42_reassembler.md R110): a data frame arriving behind a buffer without a
marker is delivered as its message and the buffer is empty afterwards. The next state is given whole, so it rests on the
model's choices too: the arrival is FEED of the bytes (R174, log entry 1, DEDUCED), TX and OUTCOME keep what they carry
(log entry 3, DEDUCED, unsafe), the ghost list (log entry 5), 0x00 past the length (log entry 19). A buffer with a
marker is left to WireRowIsFeedOfItsBytes with FeedRunsTheLoopAndTheBound. -/
def Obligations.DataFrameArrivalDeliversItsMessage : Prop :=
  ∀ (i : Instr) (f : WireFrame) (s : State), i.frame? = some f → f.remote = false → i.wf = true →
    s.accepts (encode i) → markerFree s.residual →
    exec i s = .next { s with
      residual := []
      msgOut := some [frameMessage f]
      events := s.events ++ (if s.residual = [] then [] else [.desynchronized s.residual.length])
        ++ [.incompleteInput] }

/-- The rows R0 to R8 (70_reset_and_hazards.md R181 and R178, 41_decoder.md R92): a remote frame arriving behind a buffer
without a marker delivers nothing and stays as noise, within the bound. The next state is given whole, so it rests on
the model's choices too: the arrival is FEED of the bytes (R174, log entry 1, DEDUCED), TX and OUTCOME keep what they
carry (log entry 3, DEDUCED, unsafe), the ghost list (log entry 5). A buffer with a marker is left to
WireRowIsFeedOfItsBytes with FeedRunsTheLoopAndTheBound. -/
def Obligations.RemoteFrameArrivalIsNoise : Prop :=
  ∀ (i : Instr) (f : WireFrame) (s : State), i.frame? = some f → f.remote = true → i.wf = true →
    s.accepts (encode i) → markerFree s.residual →
    exec i s = .next { s with
      residual := if s.config.ceiling < (s.residual ++ encode i).length then [] else s.residual ++ encode i
      msgOut := some []
      events := s.events ++ [.incompleteInput]
        ++ (if s.config.ceiling < (s.residual ++ encode i).length
            then [.bufferOverflow (s.residual ++ encode i).length] else []) }

/-! ### The laws of 43_properties.md -/

/-- R130: ENCODE then DECODE of a data message gives it back, the whole frame consumed. -/
def Obligations.EncodeThenDecodeGivesTheMessageBack : Prop :=
  ∀ s : State, s.msgIn.legal → s.msgIn.isRemoteRequest = false → ∃ t u b m,
    exec .opEncode s = .next t ∧ t.tx = some b ∧ b.length = 6 + 2 * s.msgIn.length.toNat ∧
    exec .opDecode { s with rx := b } = .next u ∧ u.outcome = some (.frame m b.length) ∧ m.same s.msgIn

/-- R131: a remote frame holds no marker, decodes to `Incomplete` and, fed to a fresh connection, delivers nothing and
stays as noise. The rule does not name the one case in which the bound clears it, a ceiling of 21 and 8 data bytes;
R114 does (log entry 23). -/
def Obligations.RemoteFramesAreNeverReceived : Prop :=
  ∀ (s : State) (m : CanMessage), m.legal → m.isRemoteRequest = true → s.fresh → s.accepts (encodeMessage m) →
    markerFree (encodeMessage m) ∧ decodeWindow (encodeMessage m) = .incomplete ∧
    ∃ t, s.feed (encodeMessage m) = .next t ∧ t.msgOut = some [] ∧
      t.residual = (if s.config.ceiling < (encodeMessage m).length then [] else encodeMessage m)

/-- R132: a valid frame, cut into non-empty chunks in any way, gives its message and leaves nothing. -/
def Obligations.ChunkedFrameGivesItsMessage : Prop :=
  ∀ (s : State) (m : CanMessage) (cs : List (List Byte)), s.config.legal → s.fresh →
    m.legal → m.isRemoteRequest = false → cs.flatten = encodeMessage m → (∀ c ∈ cs, c ≠ []) →
    s.accepts (encodeMessage m) →
    ∃ out t out' t' m', feedAll cs s = some (out, t) ∧ feedAll [encodeMessage m] s = some (out', t') ∧
      out = [m'] ∧ out' = [m'] ∧ m'.same m ∧ t.residual = [] ∧ t'.residual = []

/-- R133: chunking invariance for every stream and every split; the buffers afterwards differ by marker-free noise at
the front at most. -/
def Obligations.ChunkingInvariance : Prop :=
  ∀ (s : State) (cs : List (List Byte)), s.config.legal → s.fresh → (∀ c ∈ cs, s.accepts c) →
    s.accepts cs.flatten →
    ∃ out t t', feedAll cs s = some (out, t) ∧ feedAll [cs.flatten] s = some (out, t') ∧
      ∃ x, markerFree x ∧ (t.residual = x ++ t'.residual ∨ t'.residual = x ++ t.residual)

/-- R134: noise without a marker, then a valid data frame, gives exactly its message, fed whole or in any chunks. -/
def Obligations.NoiseThenFrameGivesTheMessage : Prop :=
  ∀ (s : State) (g : List Byte) (m : CanMessage) (cs : List (List Byte)), s.fresh → markerFree g →
    m.legal → m.isRemoteRequest = false →
    (s.accepts (g ++ encodeMessage m) → ∃ m' t, feedAll [g ++ encodeMessage m] s = some ([m'], t) ∧ m'.same m ∧
      t.residual = []) ∧
    (s.config.legal → cs.flatten = g ++ encodeMessage m → (∀ c ∈ cs, s.accepts c) →
      ∃ m' t, feedAll cs s = some ([m'], t) ∧ m'.same m ∧ t.residual = [])

/-- R135: a truncated frame followed by a valid data frame gives exactly the second message: truncated inside its
header (three bytes in the source's words), and to any length provided enough bytes follow. -/
def Obligations.EmbeddedRestart : Prop :=
  ∀ (s : State) (m1 m2 : CanMessage) (n : Nat), s.fresh → m1.legal → m2.legal → m2.isRemoteRequest = false →
    1 ≤ n → n < (encodeMessage m1).length →
    (n ≤ 4 ∨ 2 * m1.length.toNat + 5 ≤ n + (encodeMessage m2).length) →
    s.accepts ((encodeMessage m1).take n ++ encodeMessage m2) →
    decodeWindow ((encodeMessage m1).take n ++ encodeMessage m2) = .skipPrefix n ∧
    ∃ m' t, feedAll [(encodeMessage m1).take n ++ encodeMessage m2] s = some ([m'], t) ∧ m'.same m2 ∧
      t.residual = []

/-- R136: more marker-free bytes than the ceiling leave the buffer empty, and the frame that follows is decoded: fed
after them, in one chunk with them, or after them in several chunks. -/
def Obligations.OverflowRecovery : Prop :=
  ∀ (s : State) (g : List Byte) (m : CanMessage) (cs : List (List Byte)), s.config.legal → s.fresh →
    markerFree g → s.config.ceiling < g.length → m.legal → m.isRemoteRequest = false →
    s.accepts (encodeMessage m) →
    (s.accepts g → ∃ t m' u, feedAll [g] s = some ([], t) ∧ t.residual = [] ∧
      feedAll [encodeMessage m] t = some ([m'], u) ∧ m'.same m) ∧
    (s.accepts (g ++ encodeMessage m) → ∃ m' u, feedAll [g ++ encodeMessage m] s = some ([m'], u) ∧ m'.same m ∧
      u.residual = [] ∧ ∀ n, Condition.bufferOverflow n ∉ u.events.drop s.events.length) ∧
    (cs.flatten = g → (∀ c ∈ cs, s.accepts c) → ∃ t m' u, feedAll cs s = some ([], t) ∧
      t.residual <:+ g ∧ t.residual.length ≤ s.config.ceiling ∧
      feedAll [encodeMessage m] t = some ([m'], u) ∧ m'.same m)

/-- R139: the ceiling does not change what a stream delivers, in any chunking. -/
def Obligations.CeilingDoesNotChangeTheOutput : Prop :=
  ∀ (s : State) (cs : List (List Byte)) (c1 c2 : Nat), s.fresh → 21 ≤ c1 → 21 ≤ c2 → (∀ c ∈ cs, s.accepts c) →
    ∃ out t1 t2, feedAll cs { s with config := { s.config with ceiling := c1 } } = some (out, t1) ∧
      feedAll cs { s with config := { s.config with ceiling := c2 } } = some (out, t2)

/-- R140: a valid data frame followed by any bytes decodes to its message. -/
def Obligations.FrameFollowedByAnything : Prop :=
  ∀ (s : State) (m : CanMessage) (q : List Byte), m.legal → m.isRemoteRequest = false →
    ∃ t m', exec .opDecode { s with rx := encodeMessage m ++ q } = .next t ∧
      t.outcome = some (.frame m' (6 + 2 * m.length.toNat)) ∧ m'.same m

/-- R141: decode then encode gives the consumed bytes in upper case; DECODE is injective on upper-case frames and not on
windows, since it ignores the bytes behind the frame and case. -/
def Obligations.DecodeThenEncodeIsUpperCase : Prop :=
  ∀ (w : List Byte) (m : CanMessage) (c : Nat), decodeWindow w = .frame m c →
    (∀ s : State, ∃ t, exec .opEncode { s with msgIn := m } = .next t ∧ t.tx = some ((w.take c).map upperHex)) ∧
    (encodeMessage m).length = c ∧ decodeWindow (encodeMessage m) = .frame m c ∧
    (∀ w' : List Byte, decodeWindow w' = .frame m c → (w.take c).map upperHex = w.take c →
      (w'.take c).map upperHex = w'.take c → w'.take c = w.take c) ∧
    (∀ q : List Byte, decodeWindow (w.take c ++ q) = .frame m c) ∧ decodeWindow (w.map upperHex) = .frame m c

/-- R142: every proper prefix of a valid data frame is `Incomplete`. -/
def Obligations.ProperPrefixIsIncomplete : Prop :=
  ∀ (s : State) (m : CanMessage) (n : Nat), m.legal → m.isRemoteRequest = false → n < (encodeMessage m).length →
    ∃ t, exec .opDecode { s with rx := (encodeMessage m).take n } = .next t ∧ t.outcome = some .incomplete

/-! ### The whole machine -/

/-- 10_state.md R25: every step keeps the invariants of the state between operations, and a buffer that satisfies them
has one of three shapes. -/
def Obligations.EveryStepKeepsTheInvariant : Prop :=
  (∀ s t : State, s.Inv → step s = .next t → t.Inv) ∧
  (∀ s : State, s.Inv → s.residual.length < 5 ∨ markerFree s.residual ∨
    ∃ len, HeaderAt s.residual len ∧ s.residual.length < 6 + 2 * len ∧ s.residual.length ≤ 21)

/-- 10_state.md R25 at reset, with the canonical form of the memory. -/
def Obligations.ResetSatisfiesTheInvariant : Prop :=
  State.reset.Inv ∧ Memory.wf State.reset.residual ∧ State.reset.config.legal

/-- 10_state.md R20, R24: no step, RESET's included, changes the configuration. R15, R20: no instruction but OPEN and
CLOSE writes `open`; the third writer R20 names, RESET, is no instruction (its step is in ValuesAfterResetOpenClose). -/
def Obligations.OnlyLifecycleOperationsMoveOpen : Prop :=
  (∀ s t : State, step s = .next t → t.config = s.config) ∧
  (∀ (i : Instr) (s t : State), i ≠ .opOpen → i ≠ .opClose → exec i s = .next t → t.isOpen = s.isOpen)

/-- 60_exceptions.md R150: the conditions are not visible. Two states that differ in the ghost list only take steps
that differ in it only, and stop for the same reason (log entry 5). -/
def Obligations.ConditionsAreNotObservable : Prop :=
  ∀ s t : State, s.sameButEvents t →
    (∀ s', step s = .next s' → ∃ t', step t = .next t' ∧ s'.sameButEvents t') ∧
    (∀ r, step s = .refused r → step t = .refused r)
end

