-- ==== Sys2Proof/Laws/Hex.lean ====
section
/-! SUPPORT. The hex-digit primitives of 30_encoding.md R55 to R57: a wire digit and its byte determine each other. -/

namespace Sys2Proof.Machine

theorem digitOfByte_eq_some (b : Byte) (d : HexDigit) (h : digitOfByte b = some d) :
    d.wf = true ∧ digitByte d = b := by
  have key : ∀ b : Byte, (digitOfByte b).all (fun d => d.wf && decide (digitByte d = b)) = true := by decide
  simpa [h] using key b

@[simp] theorem digitOfByte_digitByte (d : HexDigit) (h : d.wf = true) : digitOfByte (digitByte d) = some d := by
  have key : ∀ (v : BitVec 4) (l : Bool), HexDigit.wf ⟨v, l⟩ = true → digitOfByte (digitByte ⟨v, l⟩) = some ⟨v, l⟩ := by
    decide
  exact key d.value d.lower h

@[simp] theorem isHex_digitByte (d : HexDigit) (h : d.wf = true) : isHex (digitByte d) = true := by
  have key : ∀ (v : BitVec 4) (l : Bool), HexDigit.wf ⟨v, l⟩ = true → isHex (digitByte ⟨v, l⟩) = true := by decide
  exact key d.value d.lower h

@[simp] theorem hexVal_digitByte (d : HexDigit) (h : d.wf = true) : hexVal (digitByte d) = d.value.toNat := by
  have key : ∀ (v : BitVec 4) (l : Bool), HexDigit.wf ⟨v, l⟩ = true →
      hexVal (digitByte ⟨v, l⟩) = v.toNat := by decide
  exact key d.value d.lower h

theorem digitOfByte_isSome (b : Byte) : (digitOfByte b).isSome = isHex b := by
  unfold digitOfByte
  split <;> simp_all

theorem hexVal_lt (b : Byte) (h : isHex b = true) : hexVal b < 16 := by
  have key : ∀ b : Byte, isHex b = true → hexVal b < 16 := by decide
  exact key b h

theorem upperDigit_wf (v : Nat) : (upperDigit v).wf = true := rfl

theorem digitByte_upperDigit (v : Nat) (h : v < 16) : digitByte (upperDigit v) = hexChar v := by
  simp [digitByte, upperDigit, Nat.mod_eq_of_lt h]

/-- The characters ENCODE emits are no marker and no terminator, and have no lower-case form. -/
theorem hexChar_plain (v : Nat) (h : v < 16) :
    isHex (hexChar v) = true ∧ hexChar v ≠ dataMarker ∧ hexChar v ≠ terminator ∧ upperHex (hexChar v) = hexChar v := by
  have key : ∀ v : Fin 16, isHex (hexChar v) = true ∧ hexChar v ≠ dataMarker ∧ hexChar v ≠ terminator ∧
      upperHex (hexChar v) = hexChar v := by decide
  exact key ⟨v, h⟩

end Sys2Proof.Machine
end

