-- ==== Sys2Proof/Laws/Memory.lean ====
section
/-! SUPPORT. The buffer as a memory: what a read gives after each of the write primitives of 20_memory.md R33, and the
canonical form, which every list has and every primitive therefore keeps. -/

namespace Sys2Proof.Machine

theorem Memory.read_append_old (m : Memory) (chunk : List Byte) (i : Nat) (h : i < m.length) :
    (m.append chunk).read i = m.read i := by
  simp [Memory.append, Memory.read, List.getElem?_append_left h]

theorem Memory.read_append_new (m : Memory) (chunk : List Byte) (i : Nat) :
    (m.append chunk).read (m.length + i) = chunk[i]? := by
  change (m ++ chunk)[m.length + i]? = chunk[i]?
  rw [List.getElem?_append_right (Nat.le_add_right _ _), Nat.add_sub_cancel_left]

@[simp] theorem Memory.read_trim (m : Memory) (n i : Nat) : (m.trim n).read i = m.read (n + i) := by
  simp [Memory.trim, Memory.read]

@[simp] theorem Memory.read_clear (m : Memory) (i : Nat) : m.clear.read i = none := by
  simp [Memory.clear, Memory.read]

theorem Memory.read_past_end (m : Memory) (i : Nat) (h : m.length ≤ i) : m.read i = none := by
  simp [Memory.read, h]

@[simp] theorem Memory.length_append (m : Memory) (chunk : List Byte) :
    (m.append chunk).length = m.length + chunk.length := by
  simp [Memory.append]

@[simp] theorem Memory.length_trim (m : Memory) (n : Nat) : (m.trim n).length = m.length - n := by
  simp [Memory.trim]

@[simp] theorem Memory.length_clear (m : Memory) : m.clear.length = 0 := rfl

/-- Two buffers that read the same at every index are the same data. -/
theorem Memory.ext_read (m m' : Memory) (h : ∀ i, m.read i = m'.read i) : m = m' :=
  List.ext_getElem? h

/-- The cells of any buffer stand at 0, 1, ... without gap or repeat. -/
theorem Memory.wf_of_list (m : Memory) : m.wf := by
  simp [Memory.wf, Memory.cells, List.map_fst_zip]

theorem Memory.append_wf (m : Memory) (chunk : List Byte) : (m.append chunk).wf := Memory.wf_of_list _

theorem Memory.trim_wf (m : Memory) (n : Nat) : (m.trim n).wf := Memory.wf_of_list _

theorem Memory.clear_wf (m : Memory) : m.clear.wf := Memory.wf_of_list _

/-- Equal cells are equal buffers. -/
theorem Memory.cells_injective (m m' : Memory) (h : m.cells = m'.cells) : m = m' := by
  have snd : ∀ l : Memory, l.cells.map Prod.snd = l := fun l => by simp [Memory.cells, List.map_snd_zip]
  rw [← snd m, ← snd m', h]

end Sys2Proof.Machine
end

