-- ==== Sys2Proof/Laws/Decoder.lean ====
section
/-! SUPPORT. What the decode attempt's parts do, once: the marker scan, the digit walk, the terminator, and which test
decides each outcome (41_decoder.md R103). Later proofs cite these and do not unfold `decodeWindow`. -/

namespace Sys2Proof.Machine

/-! ### The digit walk -/

theorem firstNonHex_eq_none (w : Memory) (p n : Nat) :
    firstNonHex w p n = none ↔ ∀ q, p ≤ q → q < p + n → hexAt w q = true := by
  induction n generalizing p with
  | zero => simp only [firstNonHex, true_iff]; intro q h1 h2; omega
  | succ n ih =>
    by_cases h : hexAt w p = true
    · simp only [firstNonHex, h, if_true, ih]
      constructor
      · intro hq q h1 h2
        rcases Nat.eq_or_lt_of_le h1 with rfl | h3
        · exact h
        · exact hq q h3 (by omega)
      · intro hq q h1 h2
        exact hq q (by omega) (by omega)
    · simp only [firstNonHex, h]
      simp only [Bool.false_eq_true, if_false, reduceCtorEq, false_iff]
      exact fun hq => h (hq p le_rfl (by omega))

theorem firstNonHex_eq_some (w : Memory) (p n k : Nat) :
    firstNonHex w p n = some k ↔
      p ≤ k ∧ k < p + n ∧ hexAt w k = false ∧ ∀ q, p ≤ q → q < k → hexAt w q = true := by
  induction n generalizing p with
  | zero => simp only [firstNonHex, reduceCtorEq, false_iff]; omega
  | succ n ih =>
    by_cases h : hexAt w p = true
    · simp only [firstNonHex, h, if_true, ih]
      constructor
      · rintro ⟨h1, h2, h3, h4⟩
        refine ⟨by omega, by omega, h3, fun q h5 h6 => ?_⟩
        rcases Nat.eq_or_lt_of_le h5 with rfl | h7
        · exact h
        · exact h4 q h7 h6
      · rintro ⟨h1, h2, h3, h4⟩
        have : p ≠ k := by rintro rfl; simp [h] at h3
        exact ⟨by omega, by omega, h3, fun q h5 h6 => h4 q (by omega) h6⟩
    · have hf : hexAt w p = false := by simpa using h
      simp only [firstNonHex, hf, Bool.false_eq_true, if_false, Option.some.injEq]
      constructor
      · rintro rfl
        exact ⟨le_rfl, by omega, hf, fun q h1 h2 => by omega⟩
      · rintro ⟨h1, h2, h3, h4⟩
        rcases Nat.eq_or_lt_of_le h1 with h5 | h5
        · exact h5
        · exact absurd (h4 p le_rfl h5) h

/-- A position that holds a hex digit is inside the window. -/
theorem lt_length_of_hexAt (w : Memory) (p : Nat) (h : hexAt w p = true) : p < w.length := by
  rcases Nat.lt_or_ge p w.length with h1 | h1
  · exact h1
  · simp [hexAt, Memory.read_past_end w p h1] at h

theorem hexAt_append (w q : Memory) (p : Nat) (h : p < w.length) : hexAt (w ++ q) p = hexAt w p := by
  simp [hexAt, Memory.read, List.getElem?_append_left h]

theorem hexValAt_append (w q : Memory) (p : Nat) (h : p < w.length) : hexValAt (w ++ q) p = hexValAt w p := by
  simp [hexValAt, Memory.read, List.getElem?_append_left h]

theorem hexValAt_lt (w : Memory) (p : Nat) (h : hexAt w p = true) : hexValAt w p < 16 := by
  unfold hexAt at h
  unfold hexValAt
  cases hr : w.read p with
  | none => simp [hr] at h
  | some b => simpa [hr] using hexVal_lt b (by simpa [hr] using h)

/-! ### The marker scan -/

theorem findMarker_eq_none (w : Memory) : findMarker w = none ↔ dataMarker ∉ w := by
  simp [findMarker, List.findIdx?_eq_none_iff]
  grind

theorem findMarker_eq_some (w : Memory) (k : Nat) :
    findMarker w = some k ↔ w[k]? = some dataMarker ∧ dataMarker ∉ w.take k := by
  unfold findMarker
  rw [List.findIdx?_eq_some_iff_getElem]
  constructor
  · rintro ⟨h, h1, h2⟩
    refine ⟨by simpa [List.getElem?_eq_getElem h] using h1, fun hm => ?_⟩
    obtain ⟨j, hj, he⟩ := List.getElem_of_mem hm
    simp only [List.length_take] at hj
    rw [List.getElem_take] at he
    have := h2 j (by omega)
    simp [he] at this
  · rintro ⟨h1, h2⟩
    obtain ⟨h, he⟩ := List.getElem?_eq_some_iff.mp h1
    refine ⟨h, by simp [he], fun j hj => ?_⟩
    simp only [beq_iff_eq]
    intro hb
    exact h2 (List.mem_take_iff_getElem.mpr ⟨j, by omega, hb⟩)

/-! ### Which test decides -/

/-- The tests of R103 in order, each with what it answers: the inversion of one decode attempt. -/
theorem decodeWindow_cases (w : Memory) :
    (w.length < 5 ∧ decodeWindow w = .incomplete) ∨
    (5 ≤ w.length ∧ dataMarker ∉ w ∧ decodeWindow w = .incomplete) ∨
    (∃ k, 5 ≤ w.length ∧ 0 < k ∧ w[k]? = some dataMarker ∧ dataMarker ∉ w.take k ∧
      decodeWindow w = .skipPrefix k) ∨
    (5 ≤ w.length ∧ w[0]? = some dataMarker ∧ decodeWindow w = decodeAtMarker w) := by
  unfold decodeWindow
  by_cases hl : w.length < minWindow
  · exact .inl ⟨hl, by simp [hl]⟩
  have hl' : 5 ≤ w.length := by simpa [minWindow] using hl
  simp only [hl, if_false]
  cases hf : findMarker w with
  | none => exact .inr (.inl ⟨hl', (findMarker_eq_none w).mp hf, rfl⟩)
  | some k =>
    obtain ⟨h1, h2⟩ := (findMarker_eq_some w k).mp hf
    cases k with
    | zero => exact .inr (.inr (.inr ⟨hl', h1, rfl⟩))
    | succ k => exact .inr (.inr (.inl ⟨k + 1, hl', Nat.succ_pos k, h1, h2, rfl⟩))

/-- With a marker at index 0 of a window of 5 bytes or more, the attempt is steps 3 to 5. -/
theorem decodeWindow_at_marker (w : Memory) (hl : 5 ≤ w.length) (h : w[0]? = some dataMarker) :
    decodeWindow w = decodeAtMarker w := by
  have hf : findMarker w = some 0 := (findMarker_eq_some w 0).mpr ⟨h, by simp⟩
  simp [decodeWindow, minWindow, Nat.not_lt.mpr hl, hf]

/-- Steps 3 to 5, each test with what it answers: header digits, length range, completeness, data digits, terminator. -/
theorem decodeAtMarker_cases (w : Memory) :
    (∃ p, 1 ≤ p ∧ p ≤ 4 ∧ hexAt w p = false ∧ (∀ q, 1 ≤ q → q < p → hexAt w q = true) ∧
      decodeAtMarker w = .skipPrefix p) ∨
    ((∀ q, 1 ≤ q → q ≤ 4 → hexAt w q = true) ∧
      ((8 < lengthAt w ∧ decodeAtMarker w = .skipPrefix 4) ∨
       (lengthAt w ≤ 8 ∧ w.length < 2 * lengthAt w + 5 ∧ decodeAtMarker w = .incomplete) ∨
       (∃ p, lengthAt w ≤ 8 ∧ 2 * lengthAt w + 5 ≤ w.length ∧ 5 ≤ p ∧ p ≤ 2 * lengthAt w + 4 ∧
          hexAt w p = false ∧ (∀ q, 5 ≤ q → q < p → hexAt w q = true) ∧ decodeAtMarker w = .skipPrefix p) ∨
       (lengthAt w ≤ 8 ∧ 2 * lengthAt w + 5 ≤ w.length ∧
          (∀ q, 5 ≤ q → q < 5 + 2 * lengthAt w → hexAt w q = true) ∧
          decodeAtMarker w = decodeTerminator w (5 + 2 * lengthAt w)))) := by
  unfold decodeAtMarker
  cases h1 : firstNonHex w 1 4 with
  | some p =>
    obtain ⟨ha, hb, hc, hd⟩ := (firstNonHex_eq_some w 1 4 p).mp h1
    exact .inl ⟨p, ha, by omega, hc, hd, rfl⟩
  | none =>
    have hh := (firstNonHex_eq_none w 1 4).mp h1
    refine .inr ⟨fun q ha hb => hh q ha (by omega), ?_⟩
    by_cases hr : lenMax < lengthAt w
    · exact .inl ⟨hr, by simp [hr]⟩
    have hr' : lengthAt w ≤ 8 := by simpa [lenMax] using hr
    by_cases hc : w.length < 2 * lengthAt w + 5
    · exact .inr (.inl ⟨hr', hc, by simp [hr, hc]⟩)
    have hc' := Nat.not_lt.mp hc
    simp only [hr, hc, if_false]
    cases h2 : firstNonHex w 5 (2 * lengthAt w) with
    | some p =>
      obtain ⟨ha, hb, hd, he⟩ := (firstNonHex_eq_some w 5 (2 * lengthAt w) p).mp h2
      exact .inr (.inr (.inl ⟨p, hr', hc', ha, by omega, hd, he, rfl⟩))
    | none => exact .inr (.inr (.inr ⟨hr', hc', (firstNonHex_eq_none w 5 _).mp h2, rfl⟩))

/-- Step 5: nothing at the position, another byte, or the terminator. -/
theorem decodeTerminator_cases (w : Memory) (q : Nat) :
    (w.length ≤ q ∧ decodeTerminator w q = .incomplete) ∨
    (∃ b, w[q]? = some b ∧ b ≠ terminator ∧ decodeTerminator w q = .skipPrefix q) ∨
    (w[q]? = some terminator ∧ decodeTerminator w q = .frame (windowMessage w) (q + 1)) := by
  unfold decodeTerminator Memory.read
  cases h : w[q]? with
  | none => exact .inl ⟨List.getElem?_eq_none_iff.mp h, rfl⟩
  | some b =>
    by_cases hb : b = terminator
    · subst hb; exact .inr (.inr ⟨rfl, by simp⟩)
    · exact .inr (.inl ⟨b, rfl, hb, by simp [hb]⟩)

/-! ### Progress -/

/-- A skip drops at least one byte and leaves at least one (10_state.md R16). -/
theorem skip_progress (w : Memory) (n : Nat) (h : decodeWindow w = .skipPrefix n) : 1 ≤ n ∧ n < w.length := by
  rcases decodeWindow_cases w with ⟨-, h1⟩ | ⟨-, -, h1⟩ | ⟨k, -, h2, h3, -, h1⟩ | ⟨hl, -, h1⟩
  · simp [h1] at h
  · simp [h1] at h
  · obtain rfl : k = n := by simpa [h1] using h
    exact ⟨h2, (List.getElem?_eq_some_iff.mp h3).1⟩
  · rw [h1] at h
    rcases decodeAtMarker_cases w with ⟨p, h2, h3, -, -, h4⟩ | ⟨-, h4⟩
    · obtain rfl : p = n := by simpa [h4] using h
      exact ⟨h2, by omega⟩
    rcases h4 with ⟨-, h4⟩ | ⟨-, -, h4⟩ | ⟨p, -, h5, h6, h7, -, -, h4⟩ | ⟨-, -, -, h4⟩
    · obtain rfl : 4 = n := by simpa [h4] using h
      omega
    · simp [h4] at h
    · obtain rfl : p = n := by simpa [h4] using h
      omega
    · rw [h4] at h
      rcases decodeTerminator_cases w (5 + 2 * lengthAt w) with ⟨-, h5⟩ | ⟨b, h6, -, h5⟩ | ⟨-, h5⟩
      · simp [h5] at h
      · obtain rfl : 5 + 2 * lengthAt w = n := by simpa [h5] using h
        exact ⟨by omega, (List.getElem?_eq_some_iff.mp h6).1⟩
      · simp [h5] at h

/-- What a frame outcome says of its window: the checks it passed, its message and what it consumes. -/
theorem frame_inv (w : Memory) (m : CanMessage) (c : Nat) (h : decodeWindow w = .frame m c) :
    w[0]? = some dataMarker ∧ (∀ q, 1 ≤ q → q ≤ 4 → hexAt w q = true) ∧ lengthAt w ≤ 8 ∧
      (∀ q, 5 ≤ q → q < 5 + 2 * lengthAt w → hexAt w q = true) ∧ w[5 + 2 * lengthAt w]? = some terminator ∧
      m = windowMessage w ∧ c = 6 + 2 * lengthAt w := by
  rcases decodeWindow_cases w with ⟨-, h1⟩ | ⟨-, -, h1⟩ | ⟨k, -, -, -, -, h1⟩ | ⟨-, h0, h1⟩
  · simp [h1] at h
  · simp [h1] at h
  · simp [h1] at h
  rw [h1] at h
  rcases decodeAtMarker_cases w with ⟨p, -, -, -, -, h4⟩ | ⟨hh, h4⟩
  · simp [h4] at h
  rcases h4 with ⟨-, h4⟩ | ⟨-, -, h4⟩ | ⟨p, -, -, -, -, -, -, h4⟩ | ⟨h5, -, h6, h4⟩
  · simp [h4] at h
  · simp [h4] at h
  · simp [h4] at h
  rw [h4] at h
  rcases decodeTerminator_cases w (5 + 2 * lengthAt w) with ⟨-, h7⟩ | ⟨b, -, -, h7⟩ | ⟨h8, h7⟩
  · simp [h7] at h
  · simp [h7] at h
  · rw [h7] at h
    obtain ⟨rfl, rfl⟩ : windowMessage w = m ∧ 5 + 2 * lengthAt w + 1 = c := by simpa using h
    exact ⟨h0, hh, h5, h6, h8, rfl, by omega⟩

/-- A frame consumes 6 to 22 bytes of its window. -/
theorem frame_progress (w : Memory) (m : CanMessage) (c : Nat) (h : decodeWindow w = .frame m c) :
    6 ≤ c ∧ c ≤ 22 ∧ c ≤ w.length := by
  obtain ⟨-, -, h1, -, h2, -, rfl⟩ := frame_inv w m c h
  have := (List.getElem?_eq_some_iff.mp h2).1
  omega

end Sys2Proof.Machine
end

