-- ==== Sys2Proof/Laws/State.lean ====
section
/-! SUPPORT. One lemma per field per update of State, so that no proof unfolds a record update. -/

namespace Sys2Proof.Machine

@[simp] theorem State.drive_config (c : BitVec 3) (rx : List Byte) (m : CanMessage) (s : State) : (s.drive c rx m).config = s.config := rfl
@[simp] theorem State.drive_isOpen (c : BitVec 3) (rx : List Byte) (m : CanMessage) (s : State) : (s.drive c rx m).isOpen = s.isOpen := rfl
@[simp] theorem State.drive_residual (c : BitVec 3) (rx : List Byte) (m : CanMessage) (s : State) : (s.drive c rx m).residual = s.residual := rfl
@[simp] theorem State.drive_cmd (c : BitVec 3) (rx : List Byte) (m : CanMessage) (s : State) : (s.drive c rx m).cmd = c := rfl
@[simp] theorem State.drive_rx (c : BitVec 3) (rx : List Byte) (m : CanMessage) (s : State) : (s.drive c rx m).rx = rx := rfl
@[simp] theorem State.drive_msgIn (c : BitVec 3) (rx : List Byte) (m : CanMessage) (s : State) : (s.drive c rx m).msgIn = m := rfl
@[simp] theorem State.drive_tx (c : BitVec 3) (rx : List Byte) (m : CanMessage) (s : State) : (s.drive c rx m).tx = s.tx := rfl
@[simp] theorem State.drive_msgOut (c : BitVec 3) (rx : List Byte) (m : CanMessage) (s : State) : (s.drive c rx m).msgOut = s.msgOut := rfl
@[simp] theorem State.drive_outcome (c : BitVec 3) (rx : List Byte) (m : CanMessage) (s : State) : (s.drive c rx m).outcome = s.outcome := rfl
@[simp] theorem State.drive_pending (c : BitVec 3) (rx : List Byte) (m : CanMessage) (s : State) : (s.drive c rx m).pending = s.pending := rfl
@[simp] theorem State.drive_events (c : BitVec 3) (rx : List Byte) (m : CanMessage) (s : State) : (s.drive c rx m).events = s.events := rfl

@[simp] theorem State.deliver_config (d : Drained) (s : State) : (s.deliver d).config = s.config := rfl
@[simp] theorem State.deliver_isOpen (d : Drained) (s : State) : (s.deliver d).isOpen = s.isOpen := rfl
@[simp] theorem State.deliver_residual (d : Drained) (s : State) : (s.deliver d).residual = d.residual := rfl
@[simp] theorem State.deliver_cmd (d : Drained) (s : State) : (s.deliver d).cmd = s.cmd := rfl
@[simp] theorem State.deliver_rx (d : Drained) (s : State) : (s.deliver d).rx = s.rx := rfl
@[simp] theorem State.deliver_msgIn (d : Drained) (s : State) : (s.deliver d).msgIn = s.msgIn := rfl
@[simp] theorem State.deliver_tx (d : Drained) (s : State) : (s.deliver d).tx = s.tx := rfl
@[simp] theorem State.deliver_msgOut (d : Drained) (s : State) : (s.deliver d).msgOut = some d.messages := rfl
@[simp] theorem State.deliver_outcome (d : Drained) (s : State) : (s.deliver d).outcome = s.outcome := rfl
@[simp] theorem State.deliver_pending (d : Drained) (s : State) : (s.deliver d).pending = s.pending := rfl
@[simp] theorem State.deliver_events (d : Drained) (s : State) : (s.deliver d).events = s.events ++ d.events := rfl

@[simp] theorem State.applyReset_config (s : State) : (s.applyReset).config = s.config := rfl
@[simp] theorem State.applyReset_isOpen (s : State) : (s.applyReset).isOpen = false := rfl
@[simp] theorem State.applyReset_residual (s : State) : (s.applyReset).residual = [] := rfl
@[simp] theorem State.applyReset_cmd (s : State) : (s.applyReset).cmd = 0 := rfl
@[simp] theorem State.applyReset_rx (s : State) : (s.applyReset).rx = [] := rfl
@[simp] theorem State.applyReset_msgIn (s : State) : (s.applyReset).msgIn = CanMessage.zero := rfl
@[simp] theorem State.applyReset_tx (s : State) : (s.applyReset).tx = none := rfl
@[simp] theorem State.applyReset_msgOut (s : State) : (s.applyReset).msgOut = none := rfl
@[simp] theorem State.applyReset_outcome (s : State) : (s.applyReset).outcome = none := rfl
@[simp] theorem State.applyReset_pending (s : State) : (s.applyReset).pending = s.pending := rfl
@[simp] theorem State.applyReset_events (s : State) : (s.applyReset).events = s.events := rfl

@[simp] theorem State.issue_config (q : Request) (s : State) : (s.issue q).config = s.config := rfl
@[simp] theorem State.issue_isOpen (q : Request) (s : State) : (s.issue q).isOpen = s.isOpen := rfl
@[simp] theorem State.issue_residual (q : Request) (s : State) : (s.issue q).residual = s.residual := rfl
@[simp] theorem State.issue_cmd (q : Request) (s : State) : (s.issue q).cmd = s.cmd := rfl
@[simp] theorem State.issue_rx (q : Request) (s : State) : (s.issue q).rx = s.rx := rfl
@[simp] theorem State.issue_msgIn (q : Request) (s : State) : (s.issue q).msgIn = s.msgIn := rfl
@[simp] theorem State.issue_tx (q : Request) (s : State) : (s.issue q).tx = s.tx := rfl
@[simp] theorem State.issue_msgOut (q : Request) (s : State) : (s.issue q).msgOut = s.msgOut := rfl
@[simp] theorem State.issue_outcome (q : Request) (s : State) : (s.issue q).outcome = s.outcome := rfl
@[simp] theorem State.issue_pending (q : Request) (s : State) : (s.issue q).pending = q :: s.pending := rfl
@[simp] theorem State.issue_events (q : Request) (s : State) : (s.issue q).events = s.events := rfl

@[simp] theorem State.reset_config : State.reset.config = Config.suggested := rfl
@[simp] theorem State.reset_isOpen : State.reset.isOpen = false := rfl
@[simp] theorem State.reset_residual : State.reset.residual = [] := rfl
@[simp] theorem State.reset_cmd : State.reset.cmd = 0 := rfl
@[simp] theorem State.reset_rx : State.reset.rx = [] := rfl
@[simp] theorem State.reset_msgIn : State.reset.msgIn = CanMessage.zero := rfl
@[simp] theorem State.reset_tx : State.reset.tx = none := rfl
@[simp] theorem State.reset_msgOut : State.reset.msgOut = none := rfl
@[simp] theorem State.reset_outcome : State.reset.outcome = none := rfl
@[simp] theorem State.reset_pending : State.reset.pending = [] := rfl
@[simp] theorem State.reset_events : State.reset.events = [] := rfl

end Sys2Proof.Machine
end

