-- ==== Sys2Proof/Laws/Feed.lean ====
section
/-! SUPPORT. What the reassembler's loop does, without its pass bound: one equation of `drain` per outcome of the
attempt (42_reassembler.md R110, R112, R113, R119), and when a FEED has a next state (R118). -/

namespace Sys2Proof.Machine

/-- Once the pass bound exceeds the buffer's length it does not matter: every pass but the last removes a byte
(R115). -/
theorem drainLoop_eq_of_lt (n k : Nat) (r : Memory) (hn : r.length < n) (hk : r.length < k) :
    drainLoop n r = drainLoop k r := by
  induction n generalizing k r with
  | zero => omega
  | succ n ih =>
    obtain ⟨k, rfl⟩ : ∃ j, k = j + 1 := ⟨k - 1, by omega⟩
    simp only [drainLoop]
    cases h : decodeWindow r with
    | incomplete => rfl
    | skipPrefix p =>
      have hp := skip_progress r p h
      simp only
      rw [ih k (r.trim p) (by simp; omega) (by simp; omega)]
    | frame m c =>
      have hp := frame_progress r m c h
      simp only
      rw [ih k (r.trim c) (by simp; omega) (by simp; omega)]

/-- R119: the loop ends on `Incomplete`, keeping every byte. -/
theorem drain_of_incomplete (r : Memory) (h : decodeWindow r = .incomplete) :
    drain r = { residual := r, messages := [], events := [.incompleteInput] } := by
  simp [drain, drainLoop, h]

/-- R112: a skip drops exactly its bytes and the loop goes on. -/
theorem drain_of_skip (r : Memory) (k : Nat) (h : decodeWindow r = .skipPrefix k) :
    drain r = (drain (r.trim k)).raise (skipCondition r k) := by
  have hp := skip_progress r k h
  rw [drain, drainLoop, h]
  simp only
  rw [drain, drainLoop_eq_of_lt r.length ((r.trim k).length + 1) (r.trim k) (by simp; omega) (by simp)]

/-- R113: a frame drops exactly its bytes, delivers its message, and the loop goes on. -/
theorem drain_of_frame (r : Memory) (m : CanMessage) (c : Nat) (h : decodeWindow r = .frame m c) :
    drain r = (drain (r.trim c)).emit m := by
  have hp := frame_progress r m c h
  rw [drain, drainLoop, h]
  simp only
  rw [drain, drainLoop_eq_of_lt r.length ((r.trim c).length + 1) (r.trim c) (by simp; omega) (by simp)]

@[simp] theorem Drained.raise_residual (c : Condition) (d : Drained) : (d.raise c).residual = d.residual := rfl
@[simp] theorem Drained.raise_messages (c : Condition) (d : Drained) : (d.raise c).messages = d.messages := rfl
@[simp] theorem Drained.raise_events (c : Condition) (d : Drained) : (d.raise c).events = c :: d.events := rfl
@[simp] theorem Drained.emit_residual (m : CanMessage) (d : Drained) : (d.emit m).residual = d.residual := rfl
@[simp] theorem Drained.emit_messages (m : CanMessage) (d : Drained) : (d.emit m).messages = m :: d.messages := rfl
@[simp] theorem Drained.emit_events (m : CanMessage) (d : Drained) : (d.emit m).events = d.events := rfl

/-- Induction along the loop: a property of a buffer and what draining it gives holds if each arm keeps it. -/
theorem drain_induction (P : Memory → Drained → Prop)
    (stop : ∀ r, decodeWindow r = .incomplete →
      P r { residual := r, messages := [], events := [.incompleteInput] })
    (skip : ∀ r k, decodeWindow r = .skipPrefix k → P (r.trim k) (drain (r.trim k)) →
      P r ((drain (r.trim k)).raise (skipCondition r k)))
    (frame : ∀ r m c, decodeWindow r = .frame m c → P (r.trim c) (drain (r.trim c)) →
      P r ((drain (r.trim c)).emit m)) (r : Memory) : P r (drain r) := by
  induction hn : r.length using Nat.strong_induction_on generalizing r with
  | _ n ih =>
    cases h : decodeWindow r with
    | incomplete => rw [drain_of_incomplete r h]; exact stop r h
    | skipPrefix k =>
      have hp := skip_progress r k h
      rw [drain_of_skip r k h]
      exact skip r k h (ih _ (by simp; omega) _ rfl)
    | frame m c =>
      have hp := frame_progress r m c h
      rw [drain_of_frame r m c h]
      exact frame r m c h (ih _ (by simp; omega) _ rfl)

/-- The safety bound touches the buffer and the ghost list, never the messages (R114, R156). -/
@[simp] theorem safetyBound_messages (n : Nat) (d : Drained) : (safetyBound n d).messages = d.messages := by
  unfold safetyBound; split <;> rfl

theorem safetyBound_residual (n : Nat) (d : Drained) :
    (safetyBound n d).residual = if n < d.residual.length then [] else d.residual := by
  unfold safetyBound; split <;> rfl

theorem safetyBound_events (n : Nat) (d : Drained) :
    (safetyBound n d).events =
      d.events ++ if n < d.residual.length then [.bufferOverflow d.residual.length] else [] := by
  unfold safetyBound; split <;> simp

theorem chunkTooLong_eq_false (c : Config) (chunk : List Byte) :
    chunkTooLong c chunk = false ↔ ∀ n, c.maxChunk = some n → chunk.length ≤ n := by
  unfold chunkTooLong
  cases c.maxChunk <;> simp

/-- Everything a FEED of a chunk can do: be refused while closed, be refused for its chunk, or deliver what the loop
and the bound give. -/
theorem feedChunk_cases (chunk : List Byte) (s : State) :
    (s.isOpen = false ∧ s.feedChunk chunk = .refused .feedWhileClosed) ∨
    (s.isOpen = true ∧ (∃ n, s.config.maxChunk = some n ∧ n < chunk.length) ∧
      s.feedChunk chunk = .refused .chunkTooLong) ∨
    (s.isOpen = true ∧ (∀ n, s.config.maxChunk = some n → chunk.length ≤ n) ∧
      s.feedChunk chunk = .next (s.deliver (reassemble s.config.ceiling s.residual chunk))) := by
  unfold State.feedChunk
  cases ho : s.isOpen with
  | false => exact .inl ⟨rfl, rfl⟩
  | true =>
    simp only [Bool.true_eq_false, if_false, false_and, false_or, true_and]
    cases hc : chunkTooLong s.config chunk with
    | false => exact .inr ⟨(chunkTooLong_eq_false _ _).mp hc, rfl⟩
    | true =>
      refine .inl ⟨?_, rfl⟩
      unfold chunkTooLong at hc
      cases hm : s.config.maxChunk with
      | none => simp [hm] at hc
      | some n => exact ⟨n, rfl, by simpa [hm] using hc⟩

theorem feedChunk_of_accepted (chunk : List Byte) (s : State) (ho : s.isOpen = true)
    (hm : ∀ n, s.config.maxChunk = some n → chunk.length ≤ n) :
    s.feedChunk chunk = .next (s.deliver (reassemble s.config.ceiling s.residual chunk)) := by
  simp [State.feedChunk, ho, (chunkTooLong_eq_false _ _).mpr hm]

end Sys2Proof.Machine
end

