-- ==== Sys2Proof/Laws/PerInstr.lean ====
section
/-! SUPPORT. The per-instruction family: the size in bytes of every row's encoding (30_encoding.md R51, R52, R70). -/

namespace Sys2Proof.Laws.EncodedSize

open Sys2Proof.Machine

/-- A wire row with `n` data bytes is `6 + 2n` bytes long, an operation is one byte. -/
def Statement (i : Instr) : Prop :=
  (encode i).length = match i.frame? with
    | some f => 6 + 2 * f.data.length
    | none => 1

theorem t0 (id : IdDigits) : Statement (.t0 id) := rfl
theorem t1 (id : IdDigits) (d0 : DataDigits) : Statement (.t1 id d0) := rfl
theorem t2 (id : IdDigits) (d0 d1 : DataDigits) : Statement (.t2 id d0 d1) := rfl
theorem t3 (id : IdDigits) (d0 d1 d2 : DataDigits) : Statement (.t3 id d0 d1 d2) := rfl
theorem t4 (id : IdDigits) (d0 d1 d2 d3 : DataDigits) : Statement (.t4 id d0 d1 d2 d3) := rfl
theorem t5 (id : IdDigits) (d0 d1 d2 d3 d4 : DataDigits) : Statement (.t5 id d0 d1 d2 d3 d4) := rfl
theorem t6 (id : IdDigits) (d0 d1 d2 d3 d4 d5 : DataDigits) : Statement (.t6 id d0 d1 d2 d3 d4 d5) := rfl
theorem t7 (id : IdDigits) (d0 d1 d2 d3 d4 d5 d6 : DataDigits) : Statement (.t7 id d0 d1 d2 d3 d4 d5 d6) := rfl
theorem t8 (id : IdDigits) (d0 d1 d2 d3 d4 d5 d6 d7 : DataDigits) : Statement (.t8 id d0 d1 d2 d3 d4 d5 d6 d7) := rfl
theorem r0 (id : IdDigits) : Statement (.r0 id) := rfl
theorem r1 (id : IdDigits) (d0 : DataDigits) : Statement (.r1 id d0) := rfl
theorem r2 (id : IdDigits) (d0 d1 : DataDigits) : Statement (.r2 id d0 d1) := rfl
theorem r3 (id : IdDigits) (d0 d1 d2 : DataDigits) : Statement (.r3 id d0 d1 d2) := rfl
theorem r4 (id : IdDigits) (d0 d1 d2 d3 : DataDigits) : Statement (.r4 id d0 d1 d2 d3) := rfl
theorem r5 (id : IdDigits) (d0 d1 d2 d3 d4 : DataDigits) : Statement (.r5 id d0 d1 d2 d3 d4) := rfl
theorem r6 (id : IdDigits) (d0 d1 d2 d3 d4 d5 : DataDigits) : Statement (.r6 id d0 d1 d2 d3 d4 d5) := rfl
theorem r7 (id : IdDigits) (d0 d1 d2 d3 d4 d5 d6 : DataDigits) : Statement (.r7 id d0 d1 d2 d3 d4 d5 d6) := rfl
theorem r8 (id : IdDigits) (d0 d1 d2 d3 d4 d5 d6 d7 : DataDigits) : Statement (.r8 id d0 d1 d2 d3 d4 d5 d6 d7) := rfl
theorem opOpen : Statement .opOpen := rfl
theorem opClose : Statement .opClose := rfl
theorem opFeed : Statement .opFeed := rfl
theorem opEncode : Statement .opEncode := rfl
theorem opDecode : Statement .opDecode := rfl

end Sys2Proof.Laws.EncodedSize
end

