-- ==== Sys2Proof/Laws/Step.lean ====
section
/-! SUPPORT. What a step can do: one lemma per kind of request, and the meaning of every wire row as one operation. -/

namespace Sys2Proof.Machine

/-- Every wire row is the arrival of its frame. -/
theorem exec_wire_row (i : Instr) (f : WireFrame) (s : State) (h : i.frame? = some f) :
    exec i s = s.receiveFrame f := by
  cases i <;> simp only [Instr.frame?, Option.some.injEq, reduceCtorEq] at h <;> subst h <;> rfl

/-- The bytes of a wire row are its frame's. -/
theorem encode_wire_row (i : Instr) (f : WireFrame) (h : i.frame? = some f) : encode i = frameBytes f := by
  simp [encode, h]

@[simp] theorem exec_opFeed (s : State) : exec .opFeed s = s.feedChunk s.rx := rfl
@[simp] theorem exec_opOpen (s : State) : exec .opOpen s = .next { s with isOpen := true, residual := [] } := rfl
@[simp] theorem exec_opClose (s : State) : exec .opClose s = .next { s with isOpen := false, residual := [] } := rfl
@[simp] theorem exec_opDecode (s : State) :
    exec .opDecode s = .next { s with outcome := some (decodeWindow s.rx) } := rfl

theorem exec_opEncode (s : State) :
    exec .opEncode s = if s.msgIn.length.toNat ≤ 8 then .next { s with tx := some (encodeMessage s.msgIn) }
      else .refused .encodeLengthOutOfRange := rfl

/-- Nothing pending. -/
theorem step_idle (s : State) (h : s.pending = []) : step s = .next s := by
  simp [step, State.fetch, h]

/-- A RESET request. -/
theorem step_reset (s : State) (rest : List Request) (h : s.pending = .reset :: rest) :
    step s = .next { State.reset with config := s.config, pending := rest, events := s.events } := by
  simp [step, State.fetch, fetchRequest, h, State.applyReset]

/-- A command: one of the five operations, nothing (000), or a refusal (110, 111). -/
theorem step_command (s : State) (c : BitVec 3) (rx : List Byte) (m : CanMessage) (rest : List Request)
    (h : s.pending = .command c rx m :: rest) :
    step s = match decodeCommand c with
      | .ok i => exec i { s with cmd := c, rx := rx, msgIn := m, pending := rest }
      | .error .idleCode => .next { s with cmd := c, rx := rx, msgIn := m, pending := rest }
      | .error _ => .refused .reservedCommand := by
  simp only [step, State.fetch, h, fetchRequest, fetchCommand, State.drive]
  cases hd : decodeCommand c with
  | ok i => rfl
  | error r => cases r <;> rfl

/-- A transport read: the row of the frame it is, or FEED of its bytes. -/
theorem step_wireChunk (s : State) (chunk : List Byte) (rest : List Request)
    (h : s.pending = .wireChunk chunk :: rest) :
    (∃ i, decodeWire chunk = .ok i [] ∧ step s = exec i { s with cmd := feedCode, rx := chunk, pending := rest }) ∨
    ((∀ i, decodeWire chunk ≠ .ok i []) ∧
      step s = exec .opFeed { s with cmd := feedCode, rx := chunk, pending := rest }) := by
  simp only [step, State.fetch, h, fetchRequest, fetchChunk, State.drive]
  cases hd : decodeWire chunk with
  | rejected r => exact .inr ⟨fun i => by simp, rfl⟩
  | ok i l =>
    cases l with
    | nil => exact .inl ⟨i, rfl, rfl⟩
    | cons b l => exact .inr ⟨fun j => by simp, rfl⟩

end Sys2Proof.Machine
end

