-- ==== Sys2Proof/Tests/Slice0.lean ====
section
/-! SUPPORT. The model's own tests. Expected values are the spec's: the encodings of 30_encoding.md R51, R52, R54 and
R70, the rows of 95_test_vectors.md (V10, V20, V30, V40) and of 42_reassembler.md R124. After them, for each statement
with hypotheses, a named witness that meets them. -/

namespace Sys2Proof.Tests

open Sys2Proof.Machine

/-! ### Helpers -/

/-- An open block with a buffer and a ceiling. -/
def opened (ceiling : Nat) (r : Memory) : State :=
  { State.reset with config := ⟨ceiling, none⟩, isOpen := true, residual := r }

/-- The next state, if the answer is one. -/
def nextOf : Result → Option State
  | .next s => some s
  | .fault _ => none
  | .refused _ => none

/-- The refusal, if the answer is one. -/
def refusalOf : Result → Option Refusal
  | .next _ => none
  | .fault _ => none
  | .refused r => some r

/-- What one FEED of a chunk delivers and leaves. -/
def fed (ceiling : Nat) (r chunk : List Byte) : Option (List CanMessage × Memory) :=
  (nextOf ((opened ceiling r).feed chunk)).bind (fun t => t.msgOut.map (fun out => (out, t.residual)))

/-- A digit in upper case. -/
def dig (v : BitVec 4) : HexDigit := ⟨v, false⟩

/-- The digits of identifier 0x123. -/
def id123 : IdDigits := ⟨dig 1, dig 2, dig 3⟩

/-- The message `{0x123, 2, [AB,CD]}` of the source's example, and its frame. -/
def m123 : CanMessage := ⟨0x123, 2, dataOfList [0xAB, 0xCD], false⟩
def f123 : List Byte := [0x74, 0x31, 0x32, 0x33, 0x32, 0x41, 0x42, 0x43, 0x44, 0x0D]

/-- The message `{0x123, 0, []}`. -/
def m0 : CanMessage := ⟨0x123, 0, dataOfList [], false⟩

/-- A remote message with 8 data bytes, and a data message with 8. -/
def remote8 : CanMessage := ⟨0x7E5, 8, dataOfList [0x01, 0x23, 0x45, 0x67, 0x89, 0xAB, 0xCD, 0xEF], true⟩
def data8 : CanMessage := ⟨0x123, 8, dataOfList [0x00, 0x11, 0x22, 0x33, 0x44, 0x55, 0x66, 0x77], false⟩

/-! ### WellFormed: each check refuses an ill-formed term -/

theorem test_wf_digit : HexDigit.wf ⟨9, true⟩ = false ∧ HexDigit.wf ⟨10, true⟩ = true := by decide
theorem test_wf_id_digits : IdDigits.wf ⟨⟨0, true⟩, dig 0, dig 0⟩ = false ∧ IdDigits.wf ⟨dig 0, ⟨0, true⟩, dig 0⟩ = false ∧
    IdDigits.wf ⟨dig 0, dig 0, ⟨0, true⟩⟩ = false := by decide
theorem test_wf_data_digits : DataDigits.wf ⟨⟨1, true⟩, dig 0⟩ = false ∧ DataDigits.wf ⟨dig 0, ⟨1, true⟩⟩ = false := by decide
theorem test_wf_instr : Instr.wf (.t0 ⟨⟨0, true⟩, dig 0, dig 0⟩) = false ∧
    Instr.wf (.r1 id123 ⟨dig 0, ⟨9, true⟩⟩) = false ∧
    Instr.wf (.t8 id123 ⟨dig 0, dig 0⟩ ⟨dig 0, dig 0⟩ ⟨dig 0, dig 0⟩ ⟨dig 0, dig 0⟩ ⟨dig 0, dig 0⟩ ⟨dig 0, dig 0⟩
      ⟨dig 0, dig 0⟩ ⟨⟨5, true⟩, dig 0⟩) = false := by decide

/-! ### Decoding: a word of every row, written out from the spec's encoding -/

theorem test_decode_t0 : decode [0x74, 0x31, 0x32, 0x33, 0x30, 0x0D] =
    .ok (.t0 id123) [] := by decide
theorem test_decode_t1 : decode [0x74, 0x31, 0x32, 0x33, 0x31, 0x31, 0x41, 0x0D] =
    .ok (.t1 id123 ⟨dig 1, ⟨10, false⟩⟩) [] := by decide
theorem test_decode_t2 : decode [0x74, 0x31, 0x32, 0x33, 0x32, 0x31, 0x41, 0x32, 0x62, 0x0D] =
    .ok (.t2 id123 ⟨dig 1, ⟨10, false⟩⟩ ⟨dig 2, ⟨11, true⟩⟩) [] := by decide
theorem test_decode_t3 : decode [0x74, 0x31, 0x32, 0x33, 0x33, 0x31, 0x41, 0x32, 0x62, 0x33, 0x43, 0x0D] =
    .ok (.t3 id123 ⟨dig 1, ⟨10, false⟩⟩ ⟨dig 2, ⟨11, true⟩⟩ ⟨dig 3, ⟨12, false⟩⟩) [] := by decide
theorem test_decode_t4 : decode [0x74, 0x31, 0x32, 0x33, 0x34, 0x31, 0x41, 0x32, 0x62, 0x33, 0x43, 0x34, 0x64, 0x0D] =
    .ok (.t4 id123 ⟨dig 1, ⟨10, false⟩⟩ ⟨dig 2, ⟨11, true⟩⟩ ⟨dig 3, ⟨12, false⟩⟩ ⟨dig 4, ⟨13, true⟩⟩) [] := by decide
theorem test_decode_t5 : decode [0x74, 0x31, 0x32, 0x33, 0x35, 0x31, 0x41, 0x32, 0x62, 0x33, 0x43, 0x34, 0x64, 0x35, 0x45, 0x0D] =
    .ok (.t5 id123 ⟨dig 1, ⟨10, false⟩⟩ ⟨dig 2, ⟨11, true⟩⟩ ⟨dig 3, ⟨12, false⟩⟩ ⟨dig 4, ⟨13, true⟩⟩ ⟨dig 5, ⟨14, false⟩⟩) [] := by decide
theorem test_decode_t6 : decode [0x74, 0x31, 0x32, 0x33, 0x36, 0x31, 0x41, 0x32, 0x62, 0x33, 0x43, 0x34, 0x64, 0x35, 0x45, 0x36, 0x66, 0x0D] =
    .ok (.t6 id123 ⟨dig 1, ⟨10, false⟩⟩ ⟨dig 2, ⟨11, true⟩⟩ ⟨dig 3, ⟨12, false⟩⟩ ⟨dig 4, ⟨13, true⟩⟩ ⟨dig 5, ⟨14, false⟩⟩ ⟨dig 6, ⟨15, true⟩⟩) [] := by decide
theorem test_decode_t7 : decode [0x74, 0x31, 0x32, 0x33, 0x37, 0x31, 0x41, 0x32, 0x62, 0x33, 0x43, 0x34, 0x64, 0x35, 0x45, 0x36, 0x66, 0x37, 0x41, 0x0D] =
    .ok (.t7 id123 ⟨dig 1, ⟨10, false⟩⟩ ⟨dig 2, ⟨11, true⟩⟩ ⟨dig 3, ⟨12, false⟩⟩ ⟨dig 4, ⟨13, true⟩⟩ ⟨dig 5, ⟨14, false⟩⟩ ⟨dig 6, ⟨15, true⟩⟩ ⟨dig 7, ⟨10, false⟩⟩) [] := by decide
theorem test_decode_t8 : decode [0x74, 0x31, 0x32, 0x33, 0x38, 0x31, 0x41, 0x32, 0x62, 0x33, 0x43, 0x34, 0x64, 0x35, 0x45, 0x36, 0x66, 0x37, 0x41, 0x38, 0x62, 0x0D] =
    .ok (.t8 id123 ⟨dig 1, ⟨10, false⟩⟩ ⟨dig 2, ⟨11, true⟩⟩ ⟨dig 3, ⟨12, false⟩⟩ ⟨dig 4, ⟨13, true⟩⟩ ⟨dig 5, ⟨14, false⟩⟩ ⟨dig 6, ⟨15, true⟩⟩ ⟨dig 7, ⟨10, false⟩⟩ ⟨dig 8, ⟨11, true⟩⟩) [] := by decide
theorem test_decode_r0 : decode [0x72, 0x31, 0x32, 0x33, 0x30, 0x0D] =
    .ok (.r0 id123) [] := by decide
theorem test_decode_r1 : decode [0x72, 0x31, 0x32, 0x33, 0x31, 0x31, 0x41, 0x0D] =
    .ok (.r1 id123 ⟨dig 1, ⟨10, false⟩⟩) [] := by decide
theorem test_decode_r2 : decode [0x72, 0x31, 0x32, 0x33, 0x32, 0x31, 0x41, 0x32, 0x62, 0x0D] =
    .ok (.r2 id123 ⟨dig 1, ⟨10, false⟩⟩ ⟨dig 2, ⟨11, true⟩⟩) [] := by decide
theorem test_decode_r3 : decode [0x72, 0x31, 0x32, 0x33, 0x33, 0x31, 0x41, 0x32, 0x62, 0x33, 0x43, 0x0D] =
    .ok (.r3 id123 ⟨dig 1, ⟨10, false⟩⟩ ⟨dig 2, ⟨11, true⟩⟩ ⟨dig 3, ⟨12, false⟩⟩) [] := by decide
theorem test_decode_r4 : decode [0x72, 0x31, 0x32, 0x33, 0x34, 0x31, 0x41, 0x32, 0x62, 0x33, 0x43, 0x34, 0x64, 0x0D] =
    .ok (.r4 id123 ⟨dig 1, ⟨10, false⟩⟩ ⟨dig 2, ⟨11, true⟩⟩ ⟨dig 3, ⟨12, false⟩⟩ ⟨dig 4, ⟨13, true⟩⟩) [] := by decide
theorem test_decode_r5 : decode [0x72, 0x31, 0x32, 0x33, 0x35, 0x31, 0x41, 0x32, 0x62, 0x33, 0x43, 0x34, 0x64, 0x35, 0x45, 0x0D] =
    .ok (.r5 id123 ⟨dig 1, ⟨10, false⟩⟩ ⟨dig 2, ⟨11, true⟩⟩ ⟨dig 3, ⟨12, false⟩⟩ ⟨dig 4, ⟨13, true⟩⟩ ⟨dig 5, ⟨14, false⟩⟩) [] := by decide
theorem test_decode_r6 : decode [0x72, 0x31, 0x32, 0x33, 0x36, 0x31, 0x41, 0x32, 0x62, 0x33, 0x43, 0x34, 0x64, 0x35, 0x45, 0x36, 0x66, 0x0D] =
    .ok (.r6 id123 ⟨dig 1, ⟨10, false⟩⟩ ⟨dig 2, ⟨11, true⟩⟩ ⟨dig 3, ⟨12, false⟩⟩ ⟨dig 4, ⟨13, true⟩⟩ ⟨dig 5, ⟨14, false⟩⟩ ⟨dig 6, ⟨15, true⟩⟩) [] := by decide
theorem test_decode_r7 : decode [0x72, 0x31, 0x32, 0x33, 0x37, 0x31, 0x41, 0x32, 0x62, 0x33, 0x43, 0x34, 0x64, 0x35, 0x45, 0x36, 0x66, 0x37, 0x41, 0x0D] =
    .ok (.r7 id123 ⟨dig 1, ⟨10, false⟩⟩ ⟨dig 2, ⟨11, true⟩⟩ ⟨dig 3, ⟨12, false⟩⟩ ⟨dig 4, ⟨13, true⟩⟩ ⟨dig 5, ⟨14, false⟩⟩ ⟨dig 6, ⟨15, true⟩⟩ ⟨dig 7, ⟨10, false⟩⟩) [] := by decide
theorem test_decode_r8 : decode [0x72, 0x31, 0x32, 0x33, 0x38, 0x31, 0x41, 0x32, 0x62, 0x33, 0x43, 0x34, 0x64, 0x35, 0x45, 0x36, 0x66, 0x37, 0x41, 0x38, 0x62, 0x0D] =
    .ok (.r8 id123 ⟨dig 1, ⟨10, false⟩⟩ ⟨dig 2, ⟨11, true⟩⟩ ⟨dig 3, ⟨12, false⟩⟩ ⟨dig 4, ⟨13, true⟩⟩ ⟨dig 5, ⟨14, false⟩⟩ ⟨dig 6, ⟨15, true⟩⟩ ⟨dig 7, ⟨10, false⟩⟩ ⟨dig 8, ⟨11, true⟩⟩) [] := by decide
theorem test_decode_operations : decode [0x01] = .ok .opOpen [] ∧ decode [0x02] = .ok .opClose [] ∧
    decode [0x03] = .ok .opFeed [] ∧ decode [0x04] = .ok .opEncode [] ∧ decode [0x05] = .ok .opDecode [] := by decide
theorem test_decode_rejections : decode [] = .rejected .noBytes ∧ decode [0x00] = .rejected .idleCode ∧
    decode [0x06] = .rejected .reservedCode ∧ decode [0x07] = .rejected .reservedCode ∧
    decode [0x54, 0x31, 0x32, 0x33, 0x30, 0x0D] = .rejected .notAnInstruction ∧
    decode [0x74, 0x31] = .rejected .shortHeader ∧
    decode [0x74, 0x31, 0x67, 0x33, 0x30, 0x0D] = .rejected .headerDigit ∧
    decode [0x74, 0x31, 0x32, 0x33, 0x39, 0x0D] = .rejected .lengthDigit ∧
    decode [0x74, 0x31, 0x32, 0x33, 0x31, 0x47, 0x30, 0x0D] = .rejected .dataDigit ∧
    decode [0x74, 0x31, 0x32, 0x33, 0x30, 0x78] = .rejected .noTerminator := by decide

/-- The table's words in both numberings (log entry 9). -/
theorem test_table_words : decodeTableWord 8 1 = some .opOpen ∧ decodeTableWord 8 5 = some .opDecode ∧
    decodeTableWord 8 6 = none ∧ decodeTableWord 48 0x74313233300D = some (.t0 id123) ∧
    decodeTableWord 48 0x0D3033323172 = some (.r0 id123) := by decide

/-- The word is run by the very next step: after reset OPEN opens, and FEED is refused as R171 says. -/
theorem test_fetch_open : (nextOf (step (State.reset.withFetchWord 8 1))).map (·.isOpen) = some true := by decide
theorem test_fetch_feed : refusalOf (step (State.reset.withFetchWord 8 3)) = some .feedWhileClosed := by decide
theorem test_fetch_frame : (nextOf (step ((opened 32 []).withFetchWord 48 0x74313233300D))).map (·.msgOut) =
    some (some [m0]) := by decide

/-! ### ENCODE: 95_test_vectors.md V10 -/

/-- TX after ENCODE of a message on a closed block (V30 row 12: ENCODE does not need `open`). -/
def encoded (m : CanMessage) : Option (List Byte) := (nextOf (exec .opEncode { State.reset with msgIn := m })).bind (·.tx)

theorem test_encode_vectors : ([
(⟨0x123, 2, dataOfList [0xAB, 0xCD], false⟩, [0x74, 0x31, 0x32, 0x33, 0x32, 0x41, 0x42, 0x43, 0x44, 0x0D]),
    (⟨0x0, 0, dataOfList [], false⟩, [0x74, 0x30, 0x30, 0x30, 0x30, 0x0D]),
    (⟨0xFFF, 0, dataOfList [], false⟩, [0x74, 0x46, 0x46, 0x46, 0x30, 0x0D]),
    (⟨0x7FF, 8, dataOfList [0xFF, 0xFF, 0xFF, 0xFF, 0xFF, 0xFF, 0xFF, 0xFF], false⟩, [0x74, 0x37, 0x46, 0x46, 0x38, 0x46, 0x46, 0x46, 0x46, 0x46, 0x46, 0x46, 0x46, 0x46, 0x46, 0x46, 0x46, 0x46, 0x46, 0x46, 0x46, 0x0D]),
    (⟨0xA, 1, dataOfList [0x0F], false⟩, [0x74, 0x30, 0x30, 0x41, 0x31, 0x30, 0x46, 0x0D]),
    (⟨0xABC, 3, dataOfList [0xDE, 0xF0, 0x01], false⟩, [0x74, 0x41, 0x42, 0x43, 0x33, 0x44, 0x45, 0x46, 0x30, 0x30, 0x31, 0x0D]),
    (⟨0x601, 8, dataOfList [0x40, 0x00, 0x10, 0x00, 0x00, 0x00, 0x00, 0x00], false⟩, [0x74, 0x36, 0x30, 0x31, 0x38, 0x34, 0x30, 0x30, 0x30, 0x31, 0x30, 0x30, 0x30, 0x30, 0x30, 0x30, 0x30, 0x30, 0x30, 0x30, 0x30, 0x0D]),
    (⟨0x80, 0, dataOfList [0x99, 0x99, 0x99, 0x99, 0x99, 0x99, 0x99, 0x99], false⟩, [0x74, 0x30, 0x38, 0x30, 0x30, 0x0D]),
    (⟨0x701, 1, dataOfList [0x05, 0xEE], false⟩, [0x74, 0x37, 0x30, 0x31, 0x31, 0x30, 0x35, 0x0D]),
    (⟨0x123, 0, dataOfList [], true⟩, [0x72, 0x31, 0x32, 0x33, 0x30, 0x0D]),
    (⟨0x123, 2, dataOfList [0xAB, 0xCD], true⟩, [0x72, 0x31, 0x32, 0x33, 0x32, 0x41, 0x42, 0x43, 0x44, 0x0D]),
    (⟨0x7E5, 8, dataOfList [0x01, 0x23, 0x45, 0x67, 0x89, 0xAB, 0xCD, 0xEF], true⟩, [0x72, 0x37, 0x45, 0x35, 0x38, 0x30, 0x31, 0x32, 0x33, 0x34, 0x35, 0x36, 0x37, 0x38, 0x39, 0x41, 0x42, 0x43, 0x44, 0x45, 0x46, 0x0D])] : List (CanMessage × List Byte)).all (fun p => encoded p.1 == some p.2) = true := by decide
theorem test_encode_refused : refusalOf (exec .opEncode { State.reset with msgIn := { m0 with length := 9 } }) = some .encodeLengthOutOfRange ∧
    refusalOf (exec .opEncode { State.reset with msgIn := { m0 with length := 15 } }) = some .encodeLengthOutOfRange := by decide

/-! ### DECODE: 95_test_vectors.md V20 -/

/-- OUTCOME after DECODE of a window, on a block whose buffer must not matter (V30 row 13). -/
def decoded (window : List Byte) : Option DecodeOutcome :=
  (nextOf (exec .opDecode { opened 32 [0x74, 0x31, 0x32] with rx := window })).bind (·.outcome)

theorem test_decode_windows_first : ([
([], .incomplete),
    ([0x74, 0x31, 0x32, 0x33, 0x32, 0x41, 0x42, 0x43, 0x44, 0x0D], .frame ⟨0x123, 2, dataOfList [0xAB, 0xCD], false⟩ 10),
    ([0x74, 0x31, 0x32], .incomplete),
    ([0x74, 0x31, 0x32, 0x33], .incomplete),
    ([0x78, 0x78, 0x78, 0x78], .incomplete),
    ([0x78, 0x78, 0x78, 0x78, 0x78], .incomplete),
    ([0x78, 0x78, 0x78, 0x78, 0x78, 0x74], .skipPrefix 5),
    ([0x78, 0x78, 0x74, 0x31, 0x32, 0x33, 0x30, 0x0D], .skipPrefix 2),
    ([0x74, 0x31, 0x32, 0x33, 0x30, 0x0D], .frame ⟨0x123, 0, dataOfList [], false⟩ 6),
    ([0x74, 0x31, 0x32, 0x33, 0x30], .incomplete),
    ([0x74, 0x31, 0x32, 0x33, 0x30, 0x78], .skipPrefix 5),
    ([0x74, 0x31, 0x32, 0x33, 0x30, 0x38], .skipPrefix 5),
    ([0x74, 0x31, 0x32, 0x33, 0x30, 0x74], .skipPrefix 5),
    ([0x74, 0x31, 0x32, 0x33, 0x32, 0x41, 0x42, 0x43, 0x44], .incomplete),
    ([0x74, 0x31, 0x32, 0x33, 0x32, 0x41, 0x42, 0x43], .incomplete),
    ([0x74, 0x31, 0x32, 0x33, 0x32, 0x41, 0x42, 0x0D, 0x44], .skipPrefix 7),
    ([0x74, 0x31, 0x32, 0x33, 0x32, 0x41, 0x0D, 0x43, 0x44, 0x0D], .skipPrefix 6),
    ([0x74, 0x31, 0x32, 0x33, 0x32, 0x41, 0x42, 0x43, 0x44, 0x78], .skipPrefix 9),
    ([0x74, 0x31, 0x32, 0x33, 0x32, 0x41, 0x42, 0x43, 0x44, 0x0D, 0x74], .frame ⟨0x123, 2, dataOfList [0xAB, 0xCD], false⟩ 10),
    ([0x74, 0x31, 0x32, 0x33, 0x32, 0x61, 0x62, 0x63, 0x64, 0x0D], .frame ⟨0x123, 2, dataOfList [0xAB, 0xCD], false⟩ 10),
    ([0x74, 0x31, 0x32, 0x33, 0x32, 0x61, 0x42, 0x63, 0x44, 0x0D], .frame ⟨0x123, 2, dataOfList [0xAB, 0xCD], false⟩ 10),
    ([0x74, 0x31, 0x32, 0x74, 0x31, 0x32, 0x33, 0x32, 0x41, 0x42, 0x43, 0x44, 0x0D], .skipPrefix 3),
    ([0x74, 0x74, 0x31, 0x32, 0x33, 0x30, 0x0D], .skipPrefix 1),
    ([0x74, 0x31, 0x67, 0x33, 0x30, 0x0D], .skipPrefix 2),
    ([0x74, 0x31, 0x32, 0x67, 0x30, 0x0D], .skipPrefix 3)] : List (List Byte × DecodeOutcome)).all (fun p => decoded p.1 == some p.2) = true := by decide
theorem test_decode_windows_second : ([
([0x74, 0x31, 0x32, 0x33, 0x67, 0x0D], .skipPrefix 4),
    ([0x74, 0x31, 0x32, 0x33, 0x39, 0x0D], .skipPrefix 4),
    ([0x74, 0x31, 0x32, 0x33, 0x46], .skipPrefix 4),
    ([0x74, 0x31, 0x32, 0x33, 0x61, 0x0D, 0x0D], .skipPrefix 4),
    ([0x74, 0x31, 0x32, 0x33, 0x38], .incomplete),
    ([0x74, 0x31, 0x32, 0x33, 0x38, 0x30, 0x30, 0x31, 0x31, 0x32, 0x32, 0x33, 0x33, 0x34, 0x34, 0x35, 0x35, 0x36, 0x36, 0x37, 0x37], .incomplete),
    ([0x74, 0x31, 0x32, 0x33, 0x38, 0x30, 0x30, 0x31, 0x31, 0x32, 0x32, 0x33, 0x33, 0x34, 0x34, 0x35, 0x35, 0x36, 0x36, 0x37, 0x37, 0x0D], .frame ⟨0x123, 8, dataOfList [0x00, 0x11, 0x22, 0x33, 0x44, 0x55, 0x66, 0x77], false⟩ 22),
    ([0x74, 0x31, 0x32, 0x33, 0x38, 0x30, 0x30, 0x31, 0x31, 0x32, 0x32, 0x33, 0x33, 0x34, 0x34, 0x35, 0x35, 0x36, 0x36, 0x37], .incomplete),
    ([0x74, 0x31, 0x32, 0x33, 0x38, 0x30, 0x30, 0x31, 0x31, 0x32, 0x32, 0x33, 0x33, 0x34, 0x34, 0x35, 0x35, 0x36, 0x36, 0x37, 0x37, 0x38], .skipPrefix 21),
    ([0x74, 0x31, 0x32, 0x33, 0x38, 0x41, 0x42, 0x74, 0x31, 0x32, 0x33, 0x30, 0x0D], .incomplete),
    ([0x74, 0x31, 0x32, 0x33, 0x38, 0x41, 0x42, 0x74, 0x31, 0x32, 0x33, 0x30, 0x0D, 0x78, 0x78, 0x78, 0x78, 0x78, 0x78, 0x78, 0x78], .skipPrefix 7),
    ([0x72, 0x31, 0x32, 0x33, 0x30, 0x0D], .incomplete),
    ([0x54, 0x31, 0x32, 0x33, 0x30, 0x0D], .incomplete),
    ([0x0D, 0x0D, 0x0D, 0x0D, 0x0D], .incomplete),
    ([0x74, 0x46, 0x46, 0x46, 0x30, 0x0D], .frame ⟨0xFFF, 0, dataOfList [], false⟩ 6),
    ([0x74, 0x66, 0x66, 0x66, 0x30, 0x0D], .frame ⟨0xFFF, 0, dataOfList [], false⟩ 6),
    ([0x74, 0x30, 0x30, 0x30, 0x30, 0x0D], .frame ⟨0x0, 0, dataOfList [], false⟩ 6),
    ([0x74, 0x37, 0x46, 0x46, 0x38, 0x46, 0x46, 0x46, 0x46, 0x46, 0x46, 0x46, 0x46, 0x46, 0x46, 0x46, 0x46, 0x46, 0x46, 0x46, 0x46, 0x0D], .frame ⟨0x7FF, 8, dataOfList [0xFF, 0xFF, 0xFF, 0xFF, 0xFF, 0xFF, 0xFF, 0xFF], false⟩ 22),
    ([0x74, 0x0D, 0x0D, 0x0D, 0x0D], .skipPrefix 1),
    ([0x74, 0x31, 0x32, 0x33, 0x31, 0x47, 0x30, 0x0D], .skipPrefix 5),
    ([0x74, 0x31, 0x32, 0x33, 0x31, 0x30, 0x47, 0x0D], .skipPrefix 6),
    ([0x74, 0x31, 0x32, 0x33, 0x31, 0x0D, 0x30, 0x0D], .skipPrefix 5),
    ([0x74, 0x31, 0x32, 0x33, 0x32, 0x41, 0x41, 0x74, 0x42, 0x42, 0x0D], .skipPrefix 7),
    ([0x74, 0x31, 0x32, 0x33, 0x80, 0x0D], .skipPrefix 4),
    ([0x74, 0x30, 0x30, 0x41, 0x31, 0x30, 0x46, 0x0D], .frame ⟨0xA, 1, dataOfList [0x0F], false⟩ 8)] : List (List Byte × DecodeOutcome)).all (fun p => decoded p.1 == some p.2) = true := by decide

/-! ### FEED: 42_reassembler.md R124 and 95_test_vectors.md V30 -/

theorem test_feed_rows : ([
(32, [], [], [], []),
    (32, [], [0x74, 0x31, 0x32, 0x33, 0x32, 0x41, 0x42, 0x43, 0x44, 0x0D], [⟨0x123, 2, dataOfList [0xAB, 0xCD], false⟩], []),
    (32, [], [0x74, 0x31, 0x32, 0x33, 0x32, 0x41, 0x42], [], [0x74, 0x31, 0x32, 0x33, 0x32, 0x41, 0x42]),
    (32, [0x74, 0x31, 0x32, 0x33, 0x32, 0x41, 0x42], [0x43, 0x44, 0x0D], [⟨0x123, 2, dataOfList [0xAB, 0xCD], false⟩], []),
    (32, [0x74, 0x31, 0x32, 0x33, 0x32, 0x41, 0x42, 0x43, 0x44], [0x0D], [⟨0x123, 2, dataOfList [0xAB, 0xCD], false⟩], []),
    (32, [], [0x74, 0x31, 0x32, 0x33, 0x30, 0x0D, 0x74, 0x34, 0x35, 0x36, 0x31, 0x46, 0x46, 0x0D], [⟨0x123, 0, dataOfList [], false⟩, ⟨0x456, 1, dataOfList [0xFF], false⟩], []),
    (32, [], [0x67, 0x61, 0x72, 0x62, 0x61, 0x67, 0x65, 0x74, 0x31, 0x32, 0x33, 0x30, 0x0D], [⟨0x123, 0, dataOfList [], false⟩], []),
    (32, [], [0x74, 0x31, 0x32, 0x74, 0x31, 0x32, 0x33, 0x32, 0x41, 0x42, 0x43, 0x44, 0x0D], [⟨0x123, 2, dataOfList [0xAB, 0xCD], false⟩], []),
    (32, [], [0x78, 0x79, 0x7A], [], [0x78, 0x79, 0x7A]),
    (32, [0x78, 0x79, 0x7A], [0x74], [], [0x78, 0x79, 0x7A, 0x74]),
    (32, [0x78, 0x79, 0x7A, 0x74], [0x31], [], [0x74, 0x31]),
    (32, [], (List.replicate 33 0x78), [], []),
    (32, [], (List.replicate 32 0x78), [], (List.replicate 32 0x78)),
    (32, (List.replicate 32 0x78), [0x78], [], []),
    (32, [], (List.replicate 40 0x78 ++ [0x74, 0x31, 0x32, 0x33, 0x30, 0x0D]), [⟨0x123, 0, dataOfList [], false⟩], []),
    (32, [], [0x72, 0x31, 0x32, 0x33, 0x30, 0x0D], [], [0x72, 0x31, 0x32, 0x33, 0x30, 0x0D]),
    (32, [0x72, 0x31, 0x32, 0x33, 0x30, 0x0D], [0x74, 0x31, 0x32, 0x33, 0x30, 0x0D], [⟨0x123, 0, dataOfList [], false⟩], []),
    (32, [], [0x67, 0x61, 0x72, 0x62, 0x61, 0x67, 0x65, 0x74, 0x31, 0x32, 0x33, 0x32, 0x41, 0x42, 0x43, 0x44, 0x0D], [⟨0x123, 2, dataOfList [0xAB, 0xCD], false⟩], []),
    (32, [], [0x72, 0x31, 0x32, 0x74, 0x31, 0x32, 0x33, 0x32, 0x41, 0x42, 0x43, 0x44, 0x0D], [⟨0x123, 2, dataOfList [0xAB, 0xCD], false⟩], []),
    (32, [0x74, 0x31, 0x32, 0x33, 0x38, 0x41, 0x42], [0x74, 0x31, 0x32, 0x33, 0x30, 0x0D], [], [0x74, 0x31, 0x32, 0x33, 0x38, 0x41, 0x42, 0x74, 0x31, 0x32, 0x33, 0x30, 0x0D]),
    (32, [0x74, 0x31, 0x32, 0x33, 0x38, 0x41, 0x42, 0x74, 0x31, 0x32, 0x33, 0x30, 0x0D], [0x78, 0x78, 0x78, 0x78, 0x78, 0x78, 0x78, 0x78], [⟨0x123, 0, dataOfList [], false⟩], [0x78, 0x78, 0x78, 0x78, 0x78, 0x78, 0x78, 0x78]),
    (32, [0x78, 0x78, 0x78, 0x78, 0x78, 0x78, 0x78, 0x78, 0x78, 0x78, 0x78, 0x78, 0x78, 0x78, 0x78, 0x78, 0x78, 0x78, 0x78, 0x78], [0x78, 0x78, 0x78, 0x78, 0x78, 0x78, 0x78, 0x78, 0x78, 0x78, 0x78, 0x78, 0x78, 0x78, 0x78, 0x78, 0x78, 0x78, 0x78, 0x78], [], []),
    (21, [0x74, 0x31, 0x32, 0x33, 0x38, 0x30, 0x30, 0x31, 0x31, 0x32, 0x32, 0x33, 0x33, 0x34, 0x34, 0x35, 0x35, 0x36, 0x36, 0x37, 0x37], [0x0D], [⟨0x123, 8, dataOfList [0x00, 0x11, 0x22, 0x33, 0x44, 0x55, 0x66, 0x77], false⟩], []),
    (21, [0x74, 0x31, 0x32, 0x33, 0x38, 0x30, 0x30, 0x31, 0x31, 0x32, 0x32, 0x33, 0x33, 0x34, 0x34, 0x35, 0x35, 0x36, 0x36, 0x37], [0x37], [], [0x74, 0x31, 0x32, 0x33, 0x38, 0x30, 0x30, 0x31, 0x31, 0x32, 0x32, 0x33, 0x33, 0x34, 0x34, 0x35, 0x35, 0x36, 0x36, 0x37, 0x37]),
    (32, [], ([0x74, 0x31, 0x32, 0x33, 0x30, 0x0D] ++ List.replicate 33 0x78), [⟨0x123, 0, dataOfList [], false⟩], [])] :
    List (Nat × List Byte × List Byte × List CanMessage × List Byte)).all
    (fun p => fed p.1 p.2.1 p.2.2.1 == some (p.2.2.2.1, p.2.2.2.2)) = true := by decide
theorem test_feed_conditions : ([([0x74, 0x31, 0x32, 0x33, 0x32, 0x41, 0x42], [.incompleteInput]),
    ([0x78, 0x78, 0x74, 0x31, 0x32, 0x33, 0x30, 0x0D], [.desynchronized 2, .incompleteInput]),
    ([0x74, 0x31, 0x32, 0x33, 0x32, 0x41, 0x42, 0x0D, 0x74, 0x31, 0x32, 0x33, 0x30, 0x0D],
      [.malformedFrame 7, .desynchronized 1, .incompleteInput]),
    (List.replicate 33 0x78, [.incompleteInput, .bufferOverflow 33])] : List (List Byte × List Condition)).all
    (fun p => (nextOf ((opened 32 []).feed p.1)).map (·.events) == some p.2) = true := by decide
theorem test_feed_refused : refusalOf (State.reset.feed f123) = some .feedWhileClosed ∧
    refusalOf (State.feed { opened 32 [] with config := ⟨32, some 9⟩ } f123) = some .chunkTooLong := by decide

/-! ### OPEN, CLOSE, RESET, the command port: R124 and V30 rows 9 to 11, 14 -/

theorem test_open : (nextOf (exec .opOpen (opened 32 [0x74, 0x31, 0x32]))).map (fun t => (t.isOpen, t.residual)) = some (true, []) ∧
    (nextOf (exec .opOpen State.reset)).map (fun t => (t.isOpen, t.residual)) = some (true, []) := by decide
theorem test_close : (nextOf (exec .opClose (opened 32 [0x74, 0x31, 0x32]))).map (fun t => (t.isOpen, t.residual)) =
    some (false, []) ∧ nextOf (exec .opClose State.reset) = some State.reset := by decide
theorem test_reset : (nextOf (step ((opened 32 [0x61, 0x62]).issue .reset))).map (fun t => (t.isOpen, t.residual)) =
    some (false, []) := by decide
theorem test_reserved_codes : refusalOf (step (State.reset.issue (.command 6 [] m0))) = some .reservedCommand ∧
    refusalOf (step (State.reset.issue (.command 7 [] m0))) = some .reservedCommand := by decide
theorem test_idle_code : (nextOf (step ((opened 32 [0x78]).issue (.command 0 [] m0)))).map (·.residual) = some [0x78] := by decide

/-! ### The wire rows: a frame of each arrives on an open block (41_decoder.md R98, 70_reset_and_hazards.md R181) -/

theorem test_exec_t0 : (nextOf (exec (.t0 id123) (opened 32 []))).map (fun t => (t.msgOut, t.residual)) =
    some (some [⟨0x123, 0, dataOfList [], false⟩], []) := by decide
theorem test_exec_t1 : (nextOf (exec (.t1 id123 ⟨dig 0, dig 10⟩) (opened 32 []))).map (fun t => (t.msgOut, t.residual)) =
    some (some [⟨0x123, 1, dataOfList [0x0A], false⟩], []) := by decide
theorem test_exec_t2 : (nextOf (exec (.t2 id123 ⟨dig 0, dig 10⟩ ⟨dig 1, dig 10⟩) (opened 32 []))).map (fun t => (t.msgOut, t.residual)) =
    some (some [⟨0x123, 2, dataOfList [0x0A, 0x1A], false⟩], []) := by decide
theorem test_exec_t3 : (nextOf (exec (.t3 id123 ⟨dig 0, dig 10⟩ ⟨dig 1, dig 10⟩ ⟨dig 2, dig 10⟩) (opened 32 []))).map (fun t => (t.msgOut, t.residual)) =
    some (some [⟨0x123, 3, dataOfList [0x0A, 0x1A, 0x2A], false⟩], []) := by decide
theorem test_exec_t4 : (nextOf (exec (.t4 id123 ⟨dig 0, dig 10⟩ ⟨dig 1, dig 10⟩ ⟨dig 2, dig 10⟩ ⟨dig 3, dig 10⟩) (opened 32 []))).map (fun t => (t.msgOut, t.residual)) =
    some (some [⟨0x123, 4, dataOfList [0x0A, 0x1A, 0x2A, 0x3A], false⟩], []) := by decide
theorem test_exec_t5 : (nextOf (exec (.t5 id123 ⟨dig 0, dig 10⟩ ⟨dig 1, dig 10⟩ ⟨dig 2, dig 10⟩ ⟨dig 3, dig 10⟩ ⟨dig 4, dig 10⟩) (opened 32 []))).map (fun t => (t.msgOut, t.residual)) =
    some (some [⟨0x123, 5, dataOfList [0x0A, 0x1A, 0x2A, 0x3A, 0x4A], false⟩], []) := by decide
theorem test_exec_t6 : (nextOf (exec (.t6 id123 ⟨dig 0, dig 10⟩ ⟨dig 1, dig 10⟩ ⟨dig 2, dig 10⟩ ⟨dig 3, dig 10⟩ ⟨dig 4, dig 10⟩ ⟨dig 5, dig 10⟩) (opened 32 []))).map (fun t => (t.msgOut, t.residual)) =
    some (some [⟨0x123, 6, dataOfList [0x0A, 0x1A, 0x2A, 0x3A, 0x4A, 0x5A], false⟩], []) := by decide
theorem test_exec_t7 : (nextOf (exec (.t7 id123 ⟨dig 0, dig 10⟩ ⟨dig 1, dig 10⟩ ⟨dig 2, dig 10⟩ ⟨dig 3, dig 10⟩ ⟨dig 4, dig 10⟩ ⟨dig 5, dig 10⟩ ⟨dig 6, dig 10⟩) (opened 32 []))).map (fun t => (t.msgOut, t.residual)) =
    some (some [⟨0x123, 7, dataOfList [0x0A, 0x1A, 0x2A, 0x3A, 0x4A, 0x5A, 0x6A], false⟩], []) := by decide
theorem test_exec_t8 : (nextOf (exec (.t8 id123 ⟨dig 0, dig 10⟩ ⟨dig 1, dig 10⟩ ⟨dig 2, dig 10⟩ ⟨dig 3, dig 10⟩ ⟨dig 4, dig 10⟩ ⟨dig 5, dig 10⟩ ⟨dig 6, dig 10⟩ ⟨dig 7, dig 10⟩) (opened 32 []))).map (fun t => (t.msgOut, t.residual)) =
    some (some [⟨0x123, 8, dataOfList [0x0A, 0x1A, 0x2A, 0x3A, 0x4A, 0x5A, 0x6A, 0x7A], false⟩], []) := by decide
theorem test_exec_r0 : (nextOf (exec (.r0 id123) (opened 32 []))).map (fun t => (t.msgOut, t.residual)) =
    some (some [], [0x72, 0x31, 0x32, 0x33, 0x30, 0x0D]) := by decide
theorem test_exec_r1 : (nextOf (exec (.r1 id123 ⟨dig 0, dig 10⟩) (opened 32 []))).map (fun t => (t.msgOut, t.residual)) =
    some (some [], [0x72, 0x31, 0x32, 0x33, 0x31, 0x30, 0x41, 0x0D]) := by decide
theorem test_exec_r2 : (nextOf (exec (.r2 id123 ⟨dig 0, dig 10⟩ ⟨dig 1, dig 10⟩) (opened 32 []))).map (fun t => (t.msgOut, t.residual)) =
    some (some [], [0x72, 0x31, 0x32, 0x33, 0x32, 0x30, 0x41, 0x31, 0x41, 0x0D]) := by decide
theorem test_exec_r3 : (nextOf (exec (.r3 id123 ⟨dig 0, dig 10⟩ ⟨dig 1, dig 10⟩ ⟨dig 2, dig 10⟩) (opened 32 []))).map (fun t => (t.msgOut, t.residual)) =
    some (some [], [0x72, 0x31, 0x32, 0x33, 0x33, 0x30, 0x41, 0x31, 0x41, 0x32, 0x41, 0x0D]) := by decide
theorem test_exec_r4 : (nextOf (exec (.r4 id123 ⟨dig 0, dig 10⟩ ⟨dig 1, dig 10⟩ ⟨dig 2, dig 10⟩ ⟨dig 3, dig 10⟩) (opened 32 []))).map (fun t => (t.msgOut, t.residual)) =
    some (some [], [0x72, 0x31, 0x32, 0x33, 0x34, 0x30, 0x41, 0x31, 0x41, 0x32, 0x41, 0x33, 0x41, 0x0D]) := by decide
theorem test_exec_r5 : (nextOf (exec (.r5 id123 ⟨dig 0, dig 10⟩ ⟨dig 1, dig 10⟩ ⟨dig 2, dig 10⟩ ⟨dig 3, dig 10⟩ ⟨dig 4, dig 10⟩) (opened 32 []))).map (fun t => (t.msgOut, t.residual)) =
    some (some [], [0x72, 0x31, 0x32, 0x33, 0x35, 0x30, 0x41, 0x31, 0x41, 0x32, 0x41, 0x33, 0x41, 0x34, 0x41, 0x0D]) := by decide
theorem test_exec_r6 : (nextOf (exec (.r6 id123 ⟨dig 0, dig 10⟩ ⟨dig 1, dig 10⟩ ⟨dig 2, dig 10⟩ ⟨dig 3, dig 10⟩ ⟨dig 4, dig 10⟩ ⟨dig 5, dig 10⟩) (opened 32 []))).map (fun t => (t.msgOut, t.residual)) =
    some (some [], [0x72, 0x31, 0x32, 0x33, 0x36, 0x30, 0x41, 0x31, 0x41, 0x32, 0x41, 0x33, 0x41, 0x34, 0x41, 0x35, 0x41, 0x0D]) := by decide
theorem test_exec_r7 : (nextOf (exec (.r7 id123 ⟨dig 0, dig 10⟩ ⟨dig 1, dig 10⟩ ⟨dig 2, dig 10⟩ ⟨dig 3, dig 10⟩ ⟨dig 4, dig 10⟩ ⟨dig 5, dig 10⟩ ⟨dig 6, dig 10⟩) (opened 32 []))).map (fun t => (t.msgOut, t.residual)) =
    some (some [], [0x72, 0x31, 0x32, 0x33, 0x37, 0x30, 0x41, 0x31, 0x41, 0x32, 0x41, 0x33, 0x41, 0x34, 0x41, 0x35, 0x41, 0x36, 0x41, 0x0D]) := by decide
theorem test_exec_r8 : (nextOf (exec (.r8 id123 ⟨dig 0, dig 10⟩ ⟨dig 1, dig 10⟩ ⟨dig 2, dig 10⟩ ⟨dig 3, dig 10⟩ ⟨dig 4, dig 10⟩ ⟨dig 5, dig 10⟩ ⟨dig 6, dig 10⟩ ⟨dig 7, dig 10⟩) (opened 32 []))).map (fun t => (t.msgOut, t.residual)) =
    some (some [], [0x72, 0x31, 0x32, 0x33, 0x38, 0x30, 0x41, 0x31, 0x41, 0x32, 0x41, 0x33, 0x41, 0x34, 0x41, 0x35, 0x41, 0x36, 0x41, 0x37, 0x41, 0x0D]) := by decide

/-! ### Witnesses: states and operands that meet the hypotheses of the statements, at the edges of their ranges -/

theorem witness_HexDigitsInAndOut : (9 ≤ 9 ∧ 10 ≤ 10 ∧ 10 ≤ 15 ∧ 15 ≤ 15) ∧ hexChar 9 = 0x39 ∧ hexChar 10 = 0x41 ∧
    hexChar 15 = 0x46 := by decide

theorem witness_HexValuesIgnoreCase : (9 ≤ 9 ∧ 0 ≤ 5 ∧ 5 ≤ 5) ∧ hexVal 0x41 = 10 ∧ hexVal 0x61 = 10 ∧ hexVal 0x46 = 15 ∧
    hexVal 0x66 = 15 ∧ hexVal 0x39 = 9 := by decide

theorem witness_StructuralBytesStandOnceInAFrame :
    (∀ b ∈ [0x54#8, 0x31#8, 0x32#8, 0x33#8, 0x30#8], b = 0x54#8 ∨ isHex b = true) ∧
    DataFrameLayout [0x74, 0x31, 0x32, 0x33, 0x30, 0x0D] 0 ∧
    DataFrameLayout [0x74, 0x31, 0x32, 0x33, 0x31, 0x30, 0x66, 0x0D] 1 := by
  refine ⟨by decide, ⟨by decide, by decide, ?_, by decide, by decide, ?_, by decide⟩,
    ⟨by decide, by decide, ?_, by decide, by decide, ?_, by decide⟩⟩ <;>
    intro p h1 h2 <;> first | omega | (interval_cases p <;> decide)

theorem witness_EncodedInstructionDecodesBack :
    Instr.wf (.r8 id123 ⟨⟨15, true⟩, dig 0⟩ ⟨dig 0, dig 0⟩ ⟨dig 0, dig 0⟩ ⟨dig 0, dig 0⟩ ⟨dig 0, dig 0⟩ ⟨dig 0, dig 0⟩
      ⟨dig 0, dig 0⟩ ⟨dig 0, ⟨10, true⟩⟩) = true := by decide

theorem witness_DecodedBytesEncodeBack : decode (f123 ++ [0x74]) = .ok (.t2 id123 ⟨dig 10, dig 11⟩ ⟨dig 12, dig 13⟩) [0x74] := by
  decide

theorem witness_WireRowsHaveTheTableLayout :
    Instr.frame? (.t0 id123) = some ⟨false, id123, []⟩ ∧ Instr.wf (.t0 id123) = true ∧
    Instr.frame? (.r1 id123 ⟨dig 0, dig 1⟩) = some ⟨true, id123, [⟨dig 0, dig 1⟩]⟩ ∧
    Instr.wf (.r1 id123 ⟨dig 0, dig 1⟩) = true := by decide

theorem witness_StepRunsTheInstructionDecoded :
    (State.reset.issue (.command 3 [] m0)).pending = .command 3 [] m0 :: [] ∧
    decode [(3#3).setWidth 8] = .ok .opFeed [] ∧
    (State.reset.issue (.wireChunk f123)).pending = .wireChunk f123 :: [] ∧
    decode f123 = .ok (.t2 id123 ⟨dig 10, dig 11⟩ ⟨dig 12, dig 13⟩) [] ∧
    Instr.frame? (.t2 id123 ⟨dig 10, dig 11⟩ ⟨dig 12, dig 13⟩) =
      some ⟨false, id123, [⟨dig 10, dig 11⟩, ⟨dig 12, dig 13⟩]⟩ ∧
    State.reset.pending = [] := by decide

theorem reset_inv : State.reset.Inv := ⟨by decide, by decide, by decide⟩

theorem witness_OpenAndCloseTransitions : State.reset.Inv ∧ State.reset.isOpen = false := ⟨reset_inv, rfl⟩

theorem witness_OpenAndCloseFrame : ∃ t u, exec .opOpen (opened 32 f123) = .next t ∧
    exec .opClose (opened 32 f123) = .next u := ⟨_, _, rfl, rfl⟩

theorem witness_AfterResetOnlyFeedWaitsForOpen : (∃ r, step ((opened 32 f123).issue .reset) = .next r) ∧ data8.legal :=
  ⟨⟨_, rfl⟩, by decide⟩

theorem witness_EncodeEmitsTheFrameBytes : data8.length.toNat ≤ 8 ∧ data8.length.toNat = 8 ∧ m0.length.toNat = 0 := by
  decide

theorem witness_EncodeRefusesALengthAboveEight :
    8 < (CanMessage.length { m0 with length := 9 }).toNat ∧ 8 < (CanMessage.length { m0 with length := 15 }).toNat := by
  decide

theorem witness_EncodeOutputShape :
    (∃ t, exec .opEncode { State.reset with msgIn := m123 } = .next t) ∧
    CanMessage.same { m123 with data := dataOfList [0xAB, 0xCD, 0x99] } m123 ∧
    dataOfList [0xAB, 0xCD, 0x99] ≠ m123.data :=
  ⟨⟨_, rfl⟩, by decide, by decide⟩

theorem witness_EncodeEmitsAWireRow : remote8.legal ∧ data8.legal := by decide

theorem witness_CodecFrame : ∃ t u, exec .opEncode { opened 32 f123 with msgIn := m123 } = .next t ∧
    exec .opDecode (opened 32 f123) = .next u := ⟨_, _, rfl, rfl⟩

/-- DECODE's operand, on a reset block. -/
def window (w : List Byte) : State := { State.reset with rx := w }

theorem witness_DecodeShortOrUnmarkedWindow :
    (window [0x74, 0x31, 0x32, 0x33]).rx.length < 5 ∧ markerFree (window (List.replicate 5 0x78)).rx := by decide

theorem witness_DecodeSkipsNoiseBeforeTheMarker : let s := window [0x78, 0x78, 0x78, 0x78, 0x74]
    5 ≤ s.rx.length ∧ 0 < 4 ∧ s.rx[4]? = some 0x74#8 ∧ markerFree (s.rx.take 4) := by decide

theorem witness_DecodeHeaderDigitFailure : ∀ p, 1 ≤ p → p ≤ 4 →
    let s := window ((f123.take p) ++ List.replicate 5 0x67)
    5 ≤ s.rx.length ∧ s.rx[0]? = some 0x74#8 ∧ (∀ q, 1 ≤ q → q < p → hexAt s.rx q = true) ∧ hexAt s.rx p = false := by
  intro p h1 h2
  interval_cases p <;> refine ⟨by decide, by decide, ?_, by decide⟩ <;> intro q h3 h4 <;> interval_cases q <;> decide

theorem witness_DecodeLengthAboveEight :
    let s := window [0x74, 0x31, 0x32, 0x33, 0x39]
    (5 ≤ s.rx.length ∧ s.rx[0]? = some 0x74#8 ∧ (∀ p, 1 ≤ p → p ≤ 4 → hexAt s.rx p = true) ∧ 8 < hexValAt s.rx 4) ∧
    (∃ t m c, exec .opDecode (window f123) = .next t ∧ t.outcome = some (.frame m c)) := by
  refine ⟨⟨by decide, by decide, ?_, by decide⟩, _, m123, 10, rfl, by decide⟩
  intro p h1 h2
  interval_cases p <;> decide

theorem header_f123 (l : List Byte) : HeaderAt ([0x74, 0x31, 0x32, 0x33, 0x32] ++ l) 2 := by
  refine ⟨rfl, ?_, ?_, by decide⟩
  · intro p h1 h2
    interval_cases p <;> simp [hexAt, Memory.read, isHex]
  · simp [lengthAt, hexValAt, Memory.read, hexVal]

theorem header_8 (l : List Byte) : HeaderAt ([0x74, 0x31, 0x32, 0x33, 0x38] ++ l) 8 := by
  refine ⟨rfl, ?_, ?_, by decide⟩
  · intro p h1 h2
    interval_cases p <;> simp [hexAt, Memory.read, isHex]
  · simp [lengthAt, hexValAt, Memory.read, hexVal]

theorem witness_DecodeWaitsForTheDeclaredBytes :
    let s := window ([0x74, 0x31, 0x32, 0x33, 0x32] ++ [0x41, 0x42, 0x43])
    5 ≤ s.rx.length ∧ HeaderAt s.rx 2 ∧ s.rx.length < 2 * 2 + 5 :=
  ⟨by decide, header_f123 _, by decide⟩

theorem witness_DecodeDataDigitFailure :
    (let s := window ([0x74, 0x31, 0x32, 0x33, 0x32] ++ [0x41, 0x42, 0x43, 0x0D]);
      HeaderAt s.rx 2 ∧ 2 * 2 + 5 ≤ s.rx.length ∧ 5 ≤ 8 ∧ 8 ≤ 2 * 2 + 4 ∧
      (∀ q, 5 ≤ q → q < 8 → hexAt s.rx q = true) ∧ hexAt s.rx 8 = false) ∧
    (∃ t m c, exec .opDecode (window f123) = .next t ∧ t.outcome = some (.frame m c) ∧ 1 < m.length.toNat) := by
  refine ⟨⟨header_f123 _, by decide, by decide, by decide, ?_, by decide⟩, _, m123, 10, rfl, by decide, by decide⟩
  intro q h1 h2
  interval_cases q <;> decide

/-- One window for each clause: the terminator not there yet, another byte, the terminator. -/
theorem witness_DecodeTerminatorPosition : ∀ l ∈ [[], [0x78], [0x0D]], let s := window (f123.take 9 ++ l)
    HeaderAt s.rx 2 ∧ (∀ p, 5 ≤ p → p < 5 + 2 * 2 → hexAt s.rx p = true) ∧
    (s.rx.length = 5 + 2 * 2 ∨ s.rx[5 + 2 * 2]? = some 0x78#8 ∨ s.rx[5 + 2 * 2]? = some 0x0D#8) := by
  intro l hl
  refine ⟨header_f123 (0x41 :: 0x42 :: 0x43 :: 0x44 :: l), ?_, ?_⟩
  · intro p h1 h2
    simp only [List.mem_cons, List.not_mem_nil, or_false] at hl
    rcases hl with rfl | rfl | rfl <;> interval_cases p <;> decide
  · simp only [List.mem_cons, List.not_mem_nil, or_false] at hl
    rcases hl with rfl | rfl | rfl <;> decide

theorem witness_DecodedMessageFields : ∃ t m c, exec .opDecode (window f123) = .next t ∧
    t.outcome = some (.frame m c) ∧ m.length.toNat ≤ 7 ∧ dataEntry m.data 0 = 0xAB := by
  exact ⟨_, m123, 10, rfl, by decide, by decide, by decide⟩

theorem witness_DecisionsArePrefixStable : decodeWindow f123 ≠ .incomplete ∧
    decodeWindow [0x78, 0x78, 0x78, 0x78, 0x74] ≠ .incomplete := by decide

/-- With no limit, and with a limit met exactly. -/
theorem witness_FeedRunsTheLoopAndTheBound : State.accepts { opened 32 [] with rx := f123 } f123 ∧
    State.accepts { opened 32 [] with rx := f123, config := ⟨32, some 10⟩ } f123 :=
  ⟨⟨rfl, fun _ h => by cases h⟩, rfl, fun n h => by cases h; decide⟩

theorem witness_FeedRefusals : State.reset.isOpen = false ∧
    (let s : State := { opened 32 [] with rx := f123, config := ⟨32, some 9⟩ };
      s.isOpen = true ∧ s.config.maxChunk = some 9 ∧ 9 < s.rx.length) := by decide

/-- At `L = 4` both clauses hold, with the same bound. -/
theorem witness_LoopEndsWithinItsBound : LoopRun [0x74, 0x31, 0x32, 0x33] [] [.incompleteInput] [0x74, 0x31, 0x32, 0x33] ∧
    LoopRun [0x78, 0x78, 0x78, 0x78, 0x74] [] [.desynchronized 4, .incompleteInput] [0x74] ∧
    LoopRun f123 [m123] [.incompleteInput] [] :=
  ⟨.stop _ (by decide), .noise _ _ _ _ 4 (by decide) (by decide) (.stop _ (by decide)),
    .frame _ _ _ _ m123 10 (by decide) (.stop _ (by decide))⟩

theorem witness_EmptyChunkChangesNothing : (opened 32 [0x78, 0x79, 0x7A]).Inv ∧
    (opened 32 [0x78, 0x79, 0x7A]).isOpen = true ∧ (opened 32 [0x78, 0x79, 0x7A]).rx = [] :=
  ⟨⟨by decide, by decide, by decide⟩, rfl, rfl⟩

theorem witness_FeedAndWireRowFrame : ∃ t u v, exec .opFeed (opened 32 []) = .next t ∧
    exec (.t0 id123) (opened 32 []) = .next u ∧ exec (.r0 id123) (opened 32 []) = .next v := ⟨_, _, _, rfl, rfl, rfl⟩

theorem witness_ConditionsOfOneFeed : ∃ t, exec .opFeed { opened 32 [0x78] with rx := f123 } = .next t := ⟨_, rfl⟩

theorem witness_BoundClearsNoiseOnly : (opened 21 (List.replicate 22 0x78)).config.legal ∧
    LoopRun ((opened 21 (List.replicate 22 0x78)).residual ++ (opened 21 []).rx) [] [.incompleteInput]
      (List.replicate 22 0x78) ∧
    (opened 21 []).config.ceiling < (List.replicate 22 (0x78 : Byte)).length :=
  ⟨by decide, .stop _ (by decide), by decide⟩

/-- The spec's own example of R177, at the smallest legal ceiling. -/
theorem witness_TruncatedFrameHoldsBack :
    let s : State := { opened 21 [0x74, 0x31, 0x32, 0x33, 0x38] with rx := [0x41, 0x42, 0x74, 0x31, 0x32, 0x33, 0x30, 0x0D] }
    s.config.legal ∧ s.accepts s.rx ∧ 5 ≤ (s.residual ++ s.rx).length ∧ HeaderAt (s.residual ++ s.rx) 8 ∧
      (s.residual ++ s.rx).length < 2 * 8 + 5 :=
  ⟨by decide, ⟨rfl, fun _ h => by cases h⟩, by decide, header_8 _, by decide⟩

/-- Noise at the ceiling, noise past it, and a short buffer that holds a marker. -/
theorem witness_NoiseIsRetained :
    (∀ n ∈ [32, 33], let s : State := { opened 32 [] with rx := List.replicate n 0x78 };
      s.accepts s.rx ∧ markerFree (s.residual ++ s.rx)) ∧
    (let s : State := { opened 32 [0x78, 0x79, 0x7A] with rx := [0x74] };
      s.accepts s.rx ∧ (s.residual ++ s.rx).length < 5) := by
  refine ⟨fun n hn => ⟨⟨rfl, fun _ h => by cases h⟩, ?_⟩, ⟨rfl, fun _ h => by cases h⟩, by decide⟩
  simp only [List.mem_cons, List.not_mem_nil, or_false] at hn
  rcases hn with rfl | rfl <;> decide

theorem witness_DeliveredMessagesAreDataMessages :
    (∃ t, exec .opFeed { opened 32 [] with rx := f123 } = .next t ∧ t.msgOut = some [m123] ∧ m123 ∈ [m123]) ∧
    (∃ u, exec (.t0 id123) (opened 32 []) = .next u ∧ u.msgOut = some [m0] ∧ m0 ∈ [m0]) :=
  ⟨⟨_, rfl, by decide, by simp⟩, _, rfl, by decide, by simp⟩

theorem witness_NoMarkerIsSkippedUnexamined : decodeWindow [0x74, 0x31, 0x32, 0x74, 0x31] = .skipPrefix 3 ∧
    decodeWindow f123 = .frame m123 10 := by decide

theorem witness_WireRowIsFeedOfItsBytes :
    Instr.frame? (.t2 id123 ⟨dig 10, dig 11⟩ ⟨dig 12, dig 13⟩) = some ⟨false, id123, [⟨dig 10, dig 11⟩, ⟨dig 12, dig 13⟩]⟩ ∧
    (opened 32 []).accepts (encode (.t2 id123 ⟨dig 10, dig 11⟩ ⟨dig 12, dig 13⟩)) ∧ State.reset.isOpen = false ∧
    (let s : State := { opened 32 [] with config := ⟨32, some 9⟩ };
      s.isOpen = true ∧ s.config.maxChunk = some 9 ∧
      9 < (encode (.t2 id123 ⟨dig 10, dig 11⟩ ⟨dig 12, dig 13⟩)).length) :=
  ⟨rfl, ⟨rfl, fun _ h => by cases h⟩, rfl, rfl, rfl, by decide⟩

/-- On an empty buffer and behind noise. -/
theorem witness_DataFrameArrivalDeliversItsMessage :
    Instr.frame? (.t0 id123) = some ⟨false, id123, []⟩ ∧ Instr.wf (.t0 id123) = true ∧
    (∀ r ∈ [[], [0x78]], (opened 32 r).accepts (encode (.t0 id123)) ∧ markerFree (opened 32 r).residual) := by
  refine ⟨rfl, by decide, fun r hr => ⟨⟨rfl, fun _ h => by cases h⟩, ?_⟩⟩
  simp only [List.mem_cons, List.not_mem_nil, or_false] at hr
  rcases hr with rfl | rfl <;> decide

/-- A remote frame that fits the ceiling of 21 and one that does not. -/
theorem witness_RemoteFrameArrivalIsNoise :
    Instr.frame? (.r0 id123) = some ⟨true, id123, []⟩ ∧ Instr.wf (.r0 id123) = true ∧
    (∀ r ∈ [[], List.replicate 16 0x78], (opened 21 r).accepts (encode (.r0 id123)) ∧ markerFree (opened 21 r).residual) := by
  refine ⟨rfl, by decide, fun r hr => ⟨⟨rfl, fun _ h => by cases h⟩, ?_⟩⟩
  simp only [List.mem_cons, List.not_mem_nil, or_false] at hr
  rcases hr with rfl | rfl <;> decide

theorem witness_EncodeThenDecodeGivesTheMessageBack : data8.legal ∧ data8.isRemoteRequest = false := by decide

theorem fresh_opened (c : Nat) : (opened c []).fresh := ⟨rfl, rfl⟩

theorem opened_accepts (c : Nat) (r chunk : List Byte) : (opened c r).accepts chunk := ⟨rfl, fun _ h => by cases h⟩

theorem witness_RemoteFramesAreNeverReceived : remote8.legal ∧ remote8.isRemoteRequest = true ∧
    (opened 21 []).fresh ∧ (opened 21 []).accepts (encodeMessage remote8) :=
  ⟨by decide, rfl, fresh_opened 21, opened_accepts _ _ _⟩

/-- The longest frame one byte at a time, at the smallest legal ceiling (95_test_vectors.md P8). -/
theorem witness_ChunkedFrameGivesItsMessage : (opened 21 []).config.legal ∧ (opened 21 []).fresh ∧ data8.legal ∧
    data8.isRemoteRequest = false ∧ ((encodeMessage data8).map (fun b => [b])).flatten = encodeMessage data8 ∧
    (∀ c ∈ (encodeMessage data8).map (fun b => [b]), c ≠ []) ∧ (opened 21 []).accepts (encodeMessage data8) :=
  ⟨by decide, fresh_opened 21, by decide, rfl, by decide, by decide, opened_accepts _ _ _⟩

/-- The example of R133, in which the two buffers differ. -/
theorem witness_ChunkingInvariance : (opened 32 []).config.legal ∧ (opened 32 []).fresh ∧
    (∀ c ∈ [List.replicate 34 0x78, [0x79, 0x79, 0x79, 0x74]], (opened 32 []).accepts c) ∧
    (opened 32 []).accepts [List.replicate 34 0x78, [0x79, 0x79, 0x79, 0x74]].flatten :=
  ⟨by decide, fresh_opened 32, fun _ _ => opened_accepts _ _ _, opened_accepts _ _ _⟩

theorem witness_NoiseThenFrameGivesTheMessage : (opened 21 []).fresh ∧ markerFree (List.replicate 22 0x78) ∧
    m123.legal ∧ m123.isRemoteRequest = false ∧ (opened 21 []).accepts (List.replicate 22 0x78 ++ encodeMessage m123) ∧
    (opened 21 []).config.legal ∧
    [List.replicate 22 0x78, encodeMessage m123].flatten = List.replicate 22 0x78 ++ encodeMessage m123 ∧
    (∀ c ∈ [List.replicate 22 0x78, encodeMessage m123], (opened 21 []).accepts c) :=
  ⟨fresh_opened 21, by decide, by decide, rfl, opened_accepts _ _ _, by decide, by decide,
    fun _ _ => opened_accepts _ _ _⟩

/-- A truncation inside the header, and one just before the terminator with enough bytes behind it. -/
theorem witness_EmbeddedRestart : (opened 21 []).fresh ∧ m123.legal ∧ data8.legal ∧ data8.isRemoteRequest = false ∧
    (∀ n ∈ [4, 9], 1 ≤ n ∧ n < (encodeMessage m123).length ∧
      (n ≤ 4 ∨ 2 * m123.length.toNat + 5 ≤ n + (encodeMessage data8).length)) ∧
    (∀ n ∈ [4, 9], (opened 21 []).accepts ((encodeMessage m123).take n ++ encodeMessage data8)) :=
  ⟨fresh_opened 21, by decide, by decide, rfl, by decide, fun _ _ => opened_accepts _ _ _⟩

/-- One byte more than the smallest legal ceiling, whole and in two chunks. -/
theorem witness_OverflowRecovery : (opened 21 []).config.legal ∧ (opened 21 []).fresh ∧
    markerFree (List.replicate 22 0x78) ∧ (opened 21 []).config.ceiling < (List.replicate 22 (0x78 : Byte)).length ∧
    m123.legal ∧ m123.isRemoteRequest = false ∧ (opened 21 []).accepts (encodeMessage m123) ∧
    (opened 21 []).accepts (List.replicate 22 0x78) ∧ (opened 21 []).accepts (List.replicate 22 0x78 ++ encodeMessage m123) ∧
    [List.replicate 20 (0x78 : Byte), List.replicate 2 0x78].flatten = List.replicate 22 0x78 ∧
    (∀ c ∈ [List.replicate 20 0x78, List.replicate 2 0x78], (opened 21 []).accepts c) :=
  ⟨by decide, fresh_opened 21, by decide, by decide, by decide, rfl, opened_accepts _ _ _, opened_accepts _ _ _,
    opened_accepts _ _ _, by decide, fun _ _ => opened_accepts _ _ _⟩

theorem witness_CeilingDoesNotChangeTheOutput : (opened 0 []).fresh ∧ 21 ≤ 21 ∧ 21 ≤ 512 ∧
    (∀ c ∈ [List.replicate 34 0x78, f123], (opened 0 []).accepts c) :=
  ⟨fresh_opened 0, by decide, by decide, fun _ _ => opened_accepts _ _ _⟩

theorem witness_FrameFollowedByAnything : data8.legal ∧ data8.isRemoteRequest = false := by decide

theorem witness_DecodeThenEncodeIsUpperCase :
    decodeWindow [0x74, 0x66, 0x66, 0x66, 0x30, 0x0D] = .frame ⟨0xFFF, 0, dataOfList [], false⟩ 6 ∧
    decodeWindow ([0x74, 0x46, 0x46, 0x46, 0x30, 0x0D] ++ [0x74]) = .frame ⟨0xFFF, 0, dataOfList [], false⟩ 6 ∧
    ((([0x74, 0x46, 0x46, 0x46, 0x30, 0x0D] ++ [0x74]) : List Byte).take 6).map upperHex =
      (([0x74, 0x46, 0x46, 0x46, 0x30, 0x0D] ++ [0x74]) : List Byte).take 6 := by decide

theorem witness_ProperPrefixIsIncomplete : data8.legal ∧ data8.isRemoteRequest = false ∧
    21 < (encodeMessage data8).length ∧ 0 < (encodeMessage m0).length := by decide

/-- A step from a state with the invariant, by FEED, with a frame in progress of the third shape left behind. -/
theorem witness_EveryStepKeepsTheInvariant :
    (opened 21 (f123.take 9)).Inv ∧
    (∃ t, step ((opened 21 (f123.take 9)).issue (.command 3 [0x0D] m0)) = .next t) ∧
    ((opened 21 (f123.take 9)).issue (.command 3 [0x0D] m0)).Inv :=
  ⟨⟨by decide, by decide, by decide⟩, ⟨_, rfl⟩, by decide, by decide, by decide⟩

theorem witness_OnlyLifecycleOperationsMoveOpen : (∃ t, step (State.reset.issue .reset) = .next t) ∧
    Instr.opFeed ≠ .opOpen ∧ Instr.opFeed ≠ .opClose ∧ (∃ t, exec .opFeed (opened 32 f123) = .next t) :=
  ⟨⟨_, rfl⟩, by decide, by decide, _, rfl⟩

theorem witness_ConditionsAreNotObservable :
    (let s := (opened 32 []).issue (.wireChunk f123);
      s.sameButEvents { s with events := [.bufferOverflow 33] } ∧ ∃ s', step s = .next s') ∧
    (let s := State.reset.issue (.command 6 [] m0);
      s.sameButEvents { s with events := [.incompleteInput] } ∧ step s = .refused .reservedCommand) :=
  ⟨⟨rfl, _, rfl⟩, rfl, rfl⟩

end Sys2Proof.Tests
end

section
/-! SUPPORT. What an instruction and a step can do to the block, as inversion lemmas: every way to a next state, with
the state it reaches. The invariants and the frames of the whole machine are read off these. -/

namespace Sys2Proof.Machine

/-- An instruction is the row of a wire frame or one of the five operations (30_encoding.md R72). -/
theorem frame_or_operation (i : Instr) :
    (∃ f, i.frame? = some f) ∨ i = .opOpen ∨ i = .opClose ∨ i = .opFeed ∨ i = .opEncode ∨ i = .opDecode := by
  cases i <;> simp [Instr.frame?]

/-- A FEED with a next state was accepted (R118) and delivers what the loop and the bound give (R110). -/
theorem feedChunk_next (chunk : List Byte) (s t : State) (h : s.feedChunk chunk = .next t) :
    s.accepts chunk ∧ t = s.deliver (reassemble s.config.ceiling s.residual chunk) := by
  rcases feedChunk_cases chunk s with ⟨-, hf⟩ | ⟨-, -, hf⟩ | ⟨ho, hm, hf⟩
  · simp [hf] at h
  · simp [hf] at h
  · rw [hf] at h
    exact ⟨⟨ho, hm⟩, (Host.Outcome.next.inj h).symm⟩

/-- Every next state of an instruction: OPEN's, CLOSE's, that of an accepted chunk (port RX for FEED, the frame's bytes
for a wire row), ENCODE's or DECODE's. -/
theorem exec_next_cases (i : Instr) (s t : State) (h : exec i s = .next t) :
    (i = .opOpen ∧ t = { s with isOpen := true, residual := [] }) ∨
    (i = .opClose ∧ t = { s with isOpen := false, residual := [] }) ∨
    (∃ chunk, (i = .opFeed ∧ chunk = s.rx ∨ ∃ f, i.frame? = some f ∧ chunk = frameBytes f) ∧ s.accepts chunk ∧
      t = s.deliver (reassemble s.config.ceiling s.residual chunk)) ∨
    (i = .opEncode ∧ s.msgIn.legal ∧ t = { s with tx := some (encodeMessage s.msgIn) }) ∨
    (i = .opDecode ∧ t = { s with outcome := some (decodeWindow s.rx) }) := by
  rcases frame_or_operation i with ⟨f, hf⟩ | rfl | rfl | rfl | rfl | rfl
  case inl =>
    rw [exec_wire_row i f s hf] at h
    exact .inr (.inr (.inl ⟨frameBytes f, .inr ⟨f, hf, rfl⟩, feedChunk_next _ _ _ h⟩))
  case inr.inl =>
    exact .inl ⟨rfl, (Host.Outcome.next.inj h).symm⟩
  case inr.inr.inl =>
    exact .inr (.inl ⟨rfl, (Host.Outcome.next.inj h).symm⟩)
  case inr.inr.inr.inl =>
    exact .inr (.inr (.inl ⟨s.rx, .inl ⟨rfl, rfl⟩, feedChunk_next _ _ _ h⟩))
  case inr.inr.inr.inr.inl =>
    rw [exec_opEncode] at h
    split at h
    · next hl =>
      exact .inr (.inr (.inr (.inl ⟨rfl, hl, (Host.Outcome.next.inj h).symm⟩)))
    · simp at h
  case inr.inr.inr.inr.inr =>
    exact .inr (.inr (.inr (.inr ⟨rfl, (Host.Outcome.next.inj h).symm⟩)))

/-- Every next state of a step: nothing was pending, a RESET, the idle code (which only drives the ports, R71), or an
instruction run on the ports driven: a command's operation, the row a chunk is, or FEED of any other chunk. -/
theorem step_next_cases (s t : State) (h : step s = .next t) :
    (s.pending = [] ∧ t = s) ∨
    (∃ rest, s.pending = .reset :: rest ∧
      t = { State.reset with config := s.config, pending := rest, events := s.events }) ∨
    (∃ code rx m rest, s.pending = .command code rx m :: rest ∧ decodeCommand code = .error .idleCode ∧
      t = { s with pending := rest }.drive code rx m) ∨
    (∃ i code rx m rest, (s.pending = .command code rx m :: rest ∧ decodeCommand code = .ok i ∨
        s.pending = .wireChunk rx :: rest ∧ code = feedCode ∧ m = s.msgIn ∧
          (decodeWire rx = .ok i [] ∨ (∀ j, decodeWire rx ≠ .ok j []) ∧ i = .opFeed)) ∧
      exec i ({ s with pending := rest }.drive code rx m) = .next t) := by
  rcases hp : s.pending with _ | ⟨_ | _ | _, rest⟩
  case nil =>
    rw [step_idle s hp] at h
    exact .inl ⟨rfl, (Host.Outcome.next.inj h).symm⟩
  case cons.command code rx m =>
    rw [step_command s code rx m rest hp] at h
    split at h
    · next i hd => exact .inr (.inr (.inr ⟨i, code, rx, m, rest, .inl ⟨rfl, hd⟩, h⟩))
    · next hd =>
      exact .inr (.inr (.inl ⟨code, rx, m, rest, rfl, hd, (Host.Outcome.next.inj h).symm⟩))
    · simp at h
  case cons.wireChunk chunk =>
    rcases step_wireChunk s chunk rest hp with ⟨i, hd, hs⟩ | ⟨hd, hs⟩
    · exact .inr (.inr (.inr ⟨i, feedCode, chunk, s.msgIn, rest, .inr ⟨rfl, rfl, rfl, .inl hd⟩, hs ▸ h⟩))
    · exact .inr (.inr (.inr
        ⟨.opFeed, feedCode, chunk, s.msgIn, rest, .inr ⟨rfl, rfl, rfl, .inr ⟨hd, rfl⟩⟩, hs ▸ h⟩))
  case cons.reset =>
    rw [step_reset s rest hp] at h
    exact .inr (.inl ⟨rest, rfl, (Host.Outcome.next.inj h).symm⟩)

/-- No instruction writes the configuration (10_state.md R20). -/
theorem exec_keeps_config (i : Instr) (s t : State) (h : exec i s = .next t) : t.config = s.config := by
  rcases exec_next_cases i s t h with ⟨-, rfl⟩ | ⟨-, rfl⟩ | ⟨chunk, -, -, rfl⟩ | ⟨-, -, rfl⟩ | ⟨-, rfl⟩ <;> rfl

/-- No step writes the configuration, RESET's included (10_state.md R20, R24). -/
theorem step_keeps_config (s t : State) (h : step s = .next t) : t.config = s.config := by
  rcases step_next_cases s t h with ⟨-, rfl⟩ | ⟨rest, -, rfl⟩ | ⟨code, rx, m, rest, -, -, rfl⟩ |
    ⟨i, code, rx, m, rest, -, hi⟩
  · rfl
  · rfl
  · rfl
  · have hkept := exec_keeps_config i _ t hi
    exact hkept

/-- Only OPEN and CLOSE write `open` (10_state.md R15, R20). -/
theorem exec_keeps_isOpen (i : Instr) (s t : State) (hopen : i ≠ .opOpen) (hclose : i ≠ .opClose)
    (h : exec i s = .next t) : t.isOpen = s.isOpen := by
  rcases exec_next_cases i s t h with ⟨hi, -⟩ | ⟨hi, -⟩ | ⟨chunk, -, -, rfl⟩ | ⟨-, -, rfl⟩ | ⟨-, rfl⟩
  · exact absurd hi hopen
  · exact absurd hi hclose
  · rfl
  · rfl
  · rfl

end Sys2Proof.Machine
end

section
/-! SUPPORT. The invariant of 10_state.md R25: which buffers are stalled, what FEED leaves, and that every instruction
and every step keep the invariant. -/

namespace Sys2Proof.Machine

/-! ### The shapes of a stalled buffer -/

/-- Steps 3 to 5 answer `Incomplete` only on a valid header with fewer bytes than its frame. -/
theorem decodeAtMarker_incomplete (w : Memory) (h : decodeAtMarker w = .incomplete) :
    (∀ q, 1 ≤ q → q ≤ 4 → hexAt w q = true) ∧ lengthAt w ≤ 8 ∧ w.length < 6 + 2 * lengthAt w := by
  rcases decodeAtMarker_cases w with ⟨p, -, -, -, -, hd⟩ | ⟨hdigits, hd⟩
  · simp [hd] at h
  rcases hd with ⟨-, hd⟩ | ⟨hlen, hshort, -⟩ | ⟨p, -, -, -, -, -, -, hd⟩ | ⟨hlen, -, -, hd⟩
  · simp [hd] at h
  · exact ⟨hdigits, hlen, by omega⟩
  · simp [hd] at h
  rw [hd] at h
  rcases decodeTerminator_cases w (5 + 2 * lengthAt w) with ⟨hend, -⟩ | ⟨b, -, -, ht⟩ | ⟨-, ht⟩
  · exact ⟨hdigits, hlen, by omega⟩
  · simp [ht] at h
  · simp [ht] at h

/-- The three shapes of an `Incomplete` window (41_decoder.md R100, 10_state.md R25). -/
theorem incomplete_shapes (w : Memory) (h : decodeWindow w = .incomplete) :
    w.length < 5 ∨ markerFree w ∨ ∃ len, HeaderAt w len ∧ w.length < 6 + 2 * len := by
  rcases decodeWindow_cases w with ⟨hshort, -⟩ | ⟨-, hfree, -⟩ | ⟨k, -, -, -, -, hd⟩ | ⟨-, hmarker, hd⟩
  · exact .inl hshort
  · exact .inr (.inl hfree)
  · simp [hd] at h
  · obtain ⟨hdigits, hlen, hsize⟩ := decodeAtMarker_incomplete w (hd ▸ h)
    exact .inr (.inr ⟨lengthAt w, ⟨hmarker, hdigits, rfl, hlen⟩, hsize⟩)

@[simp] theorem decodeWindow_nil : decodeWindow [] = .incomplete := rfl

/-! ### What FEED leaves -/

/-- The loop stops only on an `Incomplete` attempt (R119). -/
theorem drain_stalled (r : Memory) : decodeWindow (drain r).residual = .incomplete :=
  drain_induction (fun _ d => decodeWindow d.residual = .incomplete)
    (fun _ hstop => hstop) (fun _ _ _ ih => ih) (fun _ _ _ _ ih => ih) r

/-- The bound leaves a stalled buffer stalled: what it clears is `Incomplete` too. -/
theorem reassemble_stalled (ceiling : Nat) (r : Memory) (chunk : List Byte) :
    decodeWindow (reassemble ceiling r chunk).residual = .incomplete := by
  rw [reassemble, safetyBound_residual]
  split
  · exact decodeWindow_nil
  · exact drain_stalled _

/-- The bound holds after every FEED (R114). -/
theorem reassemble_bounded (ceiling : Nat) (r : Memory) (chunk : List Byte) :
    (reassemble ceiling r chunk).residual.length ≤ ceiling := by
  rw [reassemble, safetyBound_residual]
  split
  · exact Nat.zero_le _
  · next hle => exact Nat.not_lt.mp hle

/-! ### The invariant is kept -/

/-- The invariant reads the configuration, `open` and the buffer only. -/
theorem State.Inv.of_same {s t : State} (hs : s.Inv) (hconfig : t.config = s.config) (hopen : t.isOpen = s.isOpen)
    (hresidual : t.residual = s.residual) : t.Inv where
  bounded := by rw [hconfig, hresidual]; exact hs.bounded
  stalled := by rw [hresidual]; exact hs.stalled
  closedEmpty := by rw [hopen, hresidual]; exact hs.closedEmpty

/-- With an empty buffer the invariant holds, open or not, at every ceiling. -/
theorem State.Inv.of_empty {t : State} (h : t.residual = []) : t.Inv where
  bounded := by simp [h]
  stalled := by simp [h]
  closedEmpty := fun _ => h

/-- What FEED delivers to an open block has the invariant, whatever the buffer held before. -/
theorem deliver_inv (s : State) (r : Memory) (chunk : List Byte) (hopen : s.isOpen = true) :
    (s.deliver (reassemble s.config.ceiling r chunk)).Inv where
  bounded := reassemble_bounded _ _ _
  stalled := reassemble_stalled _ _ _
  closedEmpty := by simp [hopen]

theorem exec_keeps_inv (i : Instr) (s t : State) (hs : s.Inv) (h : exec i s = .next t) : t.Inv := by
  rcases exec_next_cases i s t h with ⟨-, rfl⟩ | ⟨-, rfl⟩ | ⟨chunk, -, ⟨hopen, -⟩, rfl⟩ | ⟨-, -, rfl⟩ | ⟨-, rfl⟩
  · exact .of_empty rfl
  · exact .of_empty rfl
  · exact deliver_inv s _ chunk hopen
  · exact hs.of_same rfl rfl rfl
  · exact hs.of_same rfl rfl rfl

theorem step_keeps_inv (s t : State) (hs : s.Inv) (h : step s = .next t) : t.Inv := by
  rcases step_next_cases s t h with ⟨-, rfl⟩ | ⟨rest, -, rfl⟩ | ⟨code, rx, m, rest, -, -, rfl⟩ |
    ⟨i, code, rx, m, rest, -, hi⟩
  · exact hs
  · exact .of_empty rfl
  · exact hs.of_same rfl rfl rfl
  · refine exec_keeps_inv i _ t ?_ hi
    exact hs.of_same rfl rfl rfl

end Sys2Proof.Machine
end

section
/-! SUPPORT. The statements of 10_state.md, settled. -/

namespace Sys2Proof.Proofs

open Sys2Proof.Machine

/-- Settles O56: the invariant is kept by every way a step has to a next state, and its buffer is an `Incomplete`
window; a header announces at most 8 data bytes, so a frame in progress is at most 21 bytes long. -/
theorem everyStepKeepsTheInvariant : Obligations.EveryStepKeepsTheInvariant := by
  refine ⟨step_keeps_inv, fun s hs => ?_⟩
  rcases incomplete_shapes s.residual hs.stalled with hshort | hfree | ⟨len, header, hsize⟩
  · exact .inl hshort
  · exact .inr (.inl hfree)
  · have hlen := header.inRange
    exact .inr (.inr ⟨len, header, hsize, by omega⟩)

/-- Settles O13: the next state of OPEN and of CLOSE is a record update that empties the buffer, and an empty buffer
reads as nothing at every index. -/
theorem openAndCloseFrame : Obligations.OpenAndCloseFrame := by
  rintro i s t (rfl | rfl) h
  · obtain rfl := Host.Outcome.next.inj ((exec_opOpen s).symm.trans h)
    exact ⟨Memory.read_clear s.residual, rfl⟩
  · obtain rfl := Host.Outcome.next.inj ((exec_opClose s).symm.trans h)
    exact ⟨Memory.read_clear s.residual, rfl⟩

/-- Settles O57: the buffer is empty at reset, and the suggested ceiling 512 is at least 21. -/
theorem resetSatisfiesTheInvariant : Obligations.ResetSatisfiesTheInvariant :=
  ⟨.of_empty State.reset_residual, Memory.wf_of_list _, by decide⟩

/-- Settles O58, from the frames of a step and of an instruction. -/
theorem onlyLifecycleOperationsMoveOpen : Obligations.OnlyLifecycleOperationsMoveOpen :=
  ⟨step_keeps_config, exec_keeps_isOpen⟩

end Sys2Proof.Proofs
end

section
/-! SUPPORT. The wire rows as frames, and what the instruction decoder reads: exactly the bytes of a well-formed frame
of 30_encoding.md R51 or R52 (R54, R72). -/

namespace Sys2Proof.Machine

/-! ### Rows and frames -/

/-- The row of a frame has that frame as its record. -/
theorem frame?_of_frameInstr (f : WireFrame) (i : Instr) (h : frameInstr f = some i) : i.frame? = some f := by
  unfold frameInstr at h
  split at h <;> simp only [Option.some.injEq, reduceCtorEq] at h <;> subst h <;> rfl

theorem frameInstr_of_frame? (i : Instr) (f : WireFrame) (h : i.frame? = some f) : frameInstr f = some i := by
  cases i <;> simp only [Instr.frame?, Option.some.injEq, reduceCtorEq] at h <;> subst h <;> rfl

/-- Every frame with at most 8 data bytes is a row, one for each marker and number of data bytes (R72). -/
theorem exists_row (f : WireFrame) (h : f.data.length ≤ 8) : ∃ i : Instr, i.frame? = some f := by
  have hrow : ∃ i, frameInstr f = some i := by
    rcases f with ⟨_ | _, id, _ | ⟨d0, _ | ⟨d1, _ | ⟨d2, _ | ⟨d3, _ | ⟨d4, _ | ⟨d5, _ | ⟨d6, _ | ⟨d7, _ | _⟩⟩⟩⟩⟩⟩⟩⟩⟩ <;>
      simp_all [frameInstr] <;> omega
  obtain ⟨i, hi⟩ := hrow
  exact ⟨i, frame?_of_frameInstr f i hi⟩

theorem frame?_data_length (i : Instr) (f : WireFrame) (h : i.frame? = some f) : f.data.length ≤ 8 := by
  cases i <;> simp only [Instr.frame?, Option.some.injEq, reduceCtorEq] at h <;> subst h <;> simp

/-- A row is well formed when its frame is. -/
theorem wf_of_frame? (i : Instr) (f : WireFrame) (h : i.frame? = some f) : i.wf = f.wf := by
  cases i <;> simp only [Instr.frame?, Option.some.injEq, reduceCtorEq] at h <;> subst h <;>
    simp [Instr.wf, WireFrame.wf, Bool.and_assoc]

/-! ### The digits of a frame -/

/-- The length digits of R51 and R61. -/
theorem lengthOfByte_eq_some_iff (b : Byte) (n : Nat) : lengthOfByte b = some n ↔ n ≤ 8 ∧ hexChar n = b := by
  constructor
  · intro h
    have key : ∀ b : Byte, (lengthOfByte b).all (fun n => decide (n ≤ 8 ∧ hexChar n = b)) = true := by decide
    simpa [h] using key b
  · rintro ⟨hn, rfl⟩
    have key : ∀ n < 9, lengthOfByte (hexChar n) = some n := by decide
    exact key n (by omega)

/-- The bytes of a frame's data digits, two for each data byte (R51). -/
def dataBytes (ds : List DataDigits) : List Byte := ds.flatMap (fun d => [digitByte d.hi, digitByte d.lo])

@[simp] theorem dataBytes_nil : dataBytes [] = [] := rfl

@[simp] theorem dataBytes_cons (d : DataDigits) (ds : List DataDigits) :
    dataBytes (d :: ds) = digitByte d.hi :: digitByte d.lo :: dataBytes ds := rfl

@[simp] theorem dataBytes_length (ds : List DataDigits) : (dataBytes ds).length = 2 * ds.length := by
  induction ds with
  | nil => rfl
  | cons d ds ih => simp [ih]; omega

theorem dataDigits_wf_iff (d : DataDigits) : d.wf = true ↔ d.hi.wf = true ∧ d.lo.wf = true := by
  simp [DataDigits.wf]

/-- Data digits are read back from their bytes. -/
theorem takeData_dataBytes (ds : List DataDigits) (rest : List Byte) (h : ∀ d ∈ ds, d.wf = true) :
    takeData ds.length (dataBytes ds ++ rest) = some (ds, rest) := by
  induction ds with
  | nil => rfl
  | cons d ds ih =>
    obtain ⟨hhi, hlo⟩ := (dataDigits_wf_iff d).mp (h d (by simp))
    have htail := ih fun e he => h e (by simp [he])
    simp [takeData, hhi, hlo, htail]

/-- What is read as `n` data bytes is well formed, and its bytes are the ones read. -/
theorem takeData_inv (n : Nat) (bs rest : List Byte) (ds : List DataDigits) (h : takeData n bs = some (ds, rest)) :
    ds.length = n ∧ (∀ d ∈ ds, d.wf = true) ∧ bs = dataBytes ds ++ rest := by
  fun_induction takeData n bs generalizing ds with
  | case1 bs =>
    obtain ⟨rfl, rfl⟩ : [] = ds ∧ bs = rest := by simpa using h
    simp
  | case2 n a b bs hi lo hb ha ih =>
    obtain ⟨⟨tail, bs'⟩, htail, hds⟩ := Option.map_eq_some_iff.mp h
    obtain ⟨rfl, rfl⟩ : _ = ds ∧ bs' = rest := by simpa using hds
    obtain ⟨hn, hwf, hbs⟩ := ih tail htail
    obtain ⟨hhi, rfl⟩ := digitOfByte_eq_some a hi ha
    obtain ⟨hlo, rfl⟩ := digitOfByte_eq_some b lo hb
    simpa [hn, hbs, dataDigits_wf_iff, hhi, hlo] using hwf
  | case3 => simp at h
  | case4 => simp at h

/-! ### The bytes of a frame -/

theorem idDigits_wf_iff (d : IdDigits) : d.wf = true ↔ d.hi.wf = true ∧ d.mid.wf = true ∧ d.lo.wf = true := by
  simp [IdDigits.wf, and_assoc]

theorem wireFrame_wf_iff (f : WireFrame) :
    f.wf = true ↔ f.id.hi.wf = true ∧ f.id.mid.wf = true ∧ f.id.lo.wf = true ∧ ∀ d ∈ f.data, d.wf = true := by
  simp [WireFrame.wf, idDigits_wf_iff, and_assoc]

/-- The bytes of a frame after its marker. -/
def frameBody (f : WireFrame) : List Byte :=
  digitByte f.id.hi :: digitByte f.id.mid :: digitByte f.id.lo :: hexChar f.data.length ::
    (dataBytes f.data ++ [terminator])

theorem frameBytes_eq (f : WireFrame) :
    frameBytes f = (if f.remote then remoteMarker else dataMarker) :: frameBody f := rfl

@[simp] theorem frameBytes_length (f : WireFrame) : (frameBytes f).length = 6 + 2 * f.data.length := by
  simp [frameBytes_eq, frameBody]; omega

/-- Reading a frame's body back. -/
theorem decodeFrameBody_frameBody (i : Instr) (f : WireFrame) (rest : List Byte) (hrow : i.frame? = some f)
    (hwf : f.wf = true) : decodeFrameBody f.remote (frameBody f ++ rest) = .ok i rest := by
  obtain ⟨hhi, hmid, hlo, hdata⟩ := (wireFrame_wf_iff f).mp hwf
  have hn : lengthOfByte (hexChar f.data.length) = some f.data.length :=
    (lengthOfByte_eq_some_iff _ _).mpr ⟨frame?_data_length i f hrow, rfl⟩
  have hdigits := takeData_dataBytes f.data (terminator :: rest) hdata
  have hi := frameInstr_of_frame? i f hrow
  simp [decodeFrameBody, frameBody, hhi, hmid, hlo, hn, hdigits, hi]

/-- What is read after a marker is the body of the row's frame. -/
theorem decodeFrameBody_inv (remote : Bool) (bs rest : List Byte) (i : Instr)
    (h : decodeFrameBody remote bs = .ok i rest) :
    ∃ f, i.frame? = some f ∧ f.wf = true ∧ f.remote = remote ∧ bs = frameBody f ++ rest := by
  revert h
  fun_cases decodeFrameBody remote bs
  case case4 b1 b2 b3 b4 body hi mid lo h3 h2 h1 n h4 ds tail j hrow hdata =>
    intro h
    obtain ⟨rfl, rfl⟩ : j = i ∧ tail = rest := by simpa using h
    obtain ⟨rfl, hwf, rfl⟩ := takeData_inv n body (terminator :: tail) ds hdata
    obtain ⟨hhi, rfl⟩ := digitOfByte_eq_some b1 hi h1
    obtain ⟨hmid, rfl⟩ := digitOfByte_eq_some b2 mid h2
    obtain ⟨hlo, rfl⟩ := digitOfByte_eq_some b3 lo h3
    obtain ⟨-, rfl⟩ := (lengthOfByte_eq_some_iff b4 _).mp h4
    exact ⟨⟨remote, ⟨hi, mid, lo⟩, ds⟩, frame?_of_frameInstr _ j hrow,
      (wireFrame_wf_iff _).mpr ⟨hhi, hmid, hlo, hwf⟩, rfl, by simp [frameBody]⟩
  all_goals simp

/-- The wire decoder reads exactly the bytes of the row's frame (R51, R52, R54). -/
theorem decodeWire_eq_ok_iff (bs rest : List Byte) (i : Instr) :
    decodeWire bs = .ok i rest ↔ ∃ f, i.frame? = some f ∧ f.wf = true ∧ bs = frameBytes f ++ rest := by
  constructor
  · intro h
    unfold decodeWire at h
    split at h
    next => simp at h
    next b bs =>
      split_ifs at h with hdata hremote
      · obtain ⟨f, hrow, hwf, hf, rfl⟩ := decodeFrameBody_inv false bs rest i h
        exact ⟨f, hrow, hwf, by simp [frameBytes_eq, hf, hdata]⟩
      · obtain ⟨f, hrow, hwf, hf, rfl⟩ := decodeFrameBody_inv true bs rest i h
        exact ⟨f, hrow, hwf, by simp [frameBytes_eq, hf, hremote]⟩
  · rintro ⟨f, hrow, hwf, rfl⟩
    have hbody := decodeFrameBody_frameBody i f rest hrow hwf
    cases hf : f.remote
    · simpa [frameBytes_eq, decodeWire, hf] using hbody
    · have hne : remoteMarker ≠ dataMarker := by decide
      simpa [frameBytes_eq, decodeWire, hf, hne] using hbody

/-- A marker is no command code, so the decoder reads a frame's bytes as the wire decoder does (R70, R72). -/
theorem decode_frameBytes (f : WireFrame) (rest : List Byte) :
    decode (frameBytes f ++ rest) = decodeWire (frameBytes f ++ rest) := by
  have hcode : ¬ (if f.remote then remoteMarker else dataMarker).toNat < 8 := by cases f.remote <;> decide
  simp only [frameBytes_eq, List.cons_append, decode, hcode, if_false]

/-- No command code is a wire row (R70). -/
theorem decodeCommand_frame? (c : BitVec 3) (i : Instr) (h : decodeCommand c = .ok i) : i.frame? = none := by
  unfold decodeCommand at h
  split at h <;> simp only [Except.ok.injEq, reduceCtorEq] at h <;> subst h <;> rfl

/-- A byte that holds a command code is read as that code (R70). -/
theorem decodeCommand_of_decode (c : BitVec 3) (i : Instr) (h : decode [c.setWidth 8] = .ok i []) :
    decodeCommand c = .ok i := by
  have hcode : (c.setWidth 8).toNat = c.toNat := BitVec.toNat_setWidth_of_le (by omega)
  rw [decode, hcode, if_pos c.isLt, BitVec.ofNat_toNat, BitVec.setWidth_eq] at h
  cases hd : decodeCommand c with
  | error r => simp [hd] at h
  | ok j => simpa [hd] using h

/-- A wire row is read by the wire decoder. -/
theorem decodeWire_of_decode (bs rest : List Byte) (i : Instr) (f : WireFrame) (h : decode bs = .ok i rest)
    (hrow : i.frame? = some f) : decodeWire bs = .ok i rest := by
  unfold decode at h
  split at h
  next => simp at h
  next b bs =>
    split at h
    next =>
      split at h
      next j hj =>
        obtain ⟨rfl, -⟩ : j = i ∧ bs = rest := by simpa using h
        simp [decodeCommand_frame? _ j hj] at hrow
      next => simp at h
    next => exact h

/-- The instruction decoder reads a wire row exactly from the bytes of its frame (R72). -/
theorem decode_row_iff (bs rest : List Byte) (i : Instr) (f : WireFrame) (hrow : i.frame? = some f) :
    decode bs = .ok i rest ↔ f.wf = true ∧ bs = frameBytes f ++ rest := by
  constructor
  · intro h
    obtain ⟨g, hg, hwf, hbs⟩ := (decodeWire_eq_ok_iff bs rest i).mp (decodeWire_of_decode bs rest i f h hrow)
    obtain rfl : f = g := by simpa [hrow] using hg
    exact ⟨hwf, hbs⟩
  · rintro ⟨hwf, rfl⟩
    rw [decode_frameBytes]
    exact (decodeWire_eq_ok_iff _ rest i).mpr ⟨f, hrow, hwf, rfl⟩

end Sys2Proof.Machine
end

section
/-! SUPPORT. The data frame of 30_encoding.md R51 position by position: the layout is that of a well-formed frame's
bytes, and DECODE accepts exactly the windows that begin with it (41_decoder.md R100). -/

namespace Sys2Proof.Machine

/-! ### Reads of a frame's bytes -/

theorem hexAt_iff_exists_byte (w : Memory) (p : Nat) :
    hexAt w p = true ↔ ∃ b, w[p]? = some b ∧ isHex b = true := by
  simp [hexAt, Memory.read, Option.any_eq_true]

theorem hexAt_iff_exists_digit (w : Memory) (p : Nat) :
    hexAt w p = true ↔ ∃ d : HexDigit, d.wf = true ∧ w[p]? = some (digitByte d) := by
  constructor
  · intro h
    obtain ⟨b, hb, hhex⟩ := (hexAt_iff_exists_byte w p).mp h
    obtain ⟨d, hd⟩ := Option.isSome_iff_exists.mp ((digitOfByte_isSome b).trans hhex)
    obtain ⟨hwf, rfl⟩ := digitOfByte_eq_some b d hd
    exact ⟨d, hwf, hb⟩
  · rintro ⟨d, hwf, hd⟩
    simp [hexAt, Memory.read, hd, hwf]

theorem hexValAt_of_digit (w : Memory) (p : Nat) (d : HexDigit) (hwf : d.wf = true) (h : w[p]? = some (digitByte d)) :
    hexValAt w p = d.value.toNat := by
  simp [hexValAt, Memory.read, h, hwf]

/-- The high nibble of data byte `j` stands first of its pair, the low nibble second. -/
theorem dataBytes_getElem? (ds : List DataDigits) (j : Nat) :
    (dataBytes ds)[2 * j]? = ds[j]?.map (fun d => digitByte d.hi) ∧
    (dataBytes ds)[2 * j + 1]? = ds[j]?.map (fun d => digitByte d.lo) := by
  induction ds generalizing j with
  | nil => simp
  | cons d ds ih =>
    cases j with
    | zero => simp
    | succ j => simpa [Nat.mul_succ] using ih j

/-- Behind the header of a frame stand its data bytes, the terminator and whatever follows the frame. -/
theorem frameBytes_getElem?_data (f : WireFrame) (rest : List Byte) (q : Nat) :
    (frameBytes f ++ rest)[5 + q]? = (dataBytes f.data ++ terminator :: rest)[q]? := by
  rw [Nat.add_comm]
  simp [frameBytes_eq, frameBody]

/-- The hex digits of a frame's data. -/
theorem hexAt_dataBytes (ds : List DataDigits) (h : ∀ d ∈ ds, d.wf = true) (q : Nat) (hq : q < 2 * ds.length) :
    hexAt (dataBytes ds) q = true := by
  obtain ⟨j, hj⟩ := Nat.even_or_odd' q
  have hlt : j < ds.length := by omega
  obtain ⟨hhi, hlo⟩ := (dataDigits_wf_iff ds[j]).mp (h _ (List.getElem_mem hlt))
  obtain ⟨hread0, hread1⟩ := dataBytes_getElem? ds j
  rw [List.getElem?_eq_getElem hlt] at hread0 hread1
  rcases hj with rfl | rfl
  · exact (hexAt_iff_exists_digit _ _).mpr ⟨_, hhi, hread0⟩
  · exact (hexAt_iff_exists_digit _ _).mpr ⟨_, hlo, hread1⟩

/-! ### The layout of R51 -/

/-- A well-formed data frame's bytes have the layout of R51. -/
theorem frameBytes_layout (f : WireFrame) (hdata : f.remote = false) (hwf : f.wf = true) (hn : f.data.length ≤ 8) :
    DataFrameLayout (frameBytes f) f.data.length := by
  obtain ⟨hhi, hmid, hlo, hds⟩ := (wireFrame_wf_iff f).mp hwf
  have hread := fun q => by simpa using frameBytes_getElem?_data f [] q
  constructor
  case size => exact frameBytes_length f
  case marker => simp [frameBytes_eq, hdata, dataMarker]
  case identifier =>
    intro p h1 h3
    rw [hexAt_iff_exists_digit]
    obtain rfl | rfl | rfl : p = 1 ∨ p = 2 ∨ p = 3 := by omega
    · exact ⟨_, hhi, rfl⟩
    · exact ⟨_, hmid, rfl⟩
    · exact ⟨_, hlo, rfl⟩
  case lengthDigit =>
    have hdigit : hexChar f.data.length = BitVec.ofNat 8 (0x30 + f.data.length) := by
      simp [hexChar, Nat.le_succ_of_le hn]
    exact congrArg some hdigit
  case inRange => exact hn
  case data =>
    intro p h5 hp
    obtain ⟨q, rfl⟩ := Nat.exists_eq_add_of_le h5
    have hq : q < 2 * f.data.length := by omega
    have hhex := hexAt_dataBytes f.data hds q hq
    rw [hexAt, Memory.read, hread, List.getElem?_append_left (by simpa using hq)]
    exact hhex
  case terminator =>
    rw [hread, List.getElem?_append_right (by simp)]
    simp [Machine.terminator]

/-- `2n` hex digits are the bytes of `n` well-formed data bytes. -/
theorem exists_dataBytes (n : Nat) (bs : List Byte) (h : ∀ q < 2 * n, hexAt bs q = true) :
    ∃ ds rest, ds.length = n ∧ (∀ d ∈ ds, d.wf = true) ∧ bs = dataBytes ds ++ rest := by
  induction n generalizing bs with
  | zero => exact ⟨[], bs, rfl, by simp, rfl⟩
  | succ n ih =>
    obtain ⟨hi, hhi, hread0⟩ := (hexAt_iff_exists_digit bs 0).mp (h 0 (by omega))
    obtain ⟨lo, hlo, hread1⟩ := (hexAt_iff_exists_digit bs 1).mp (h 1 (by omega))
    match bs with
    | [] => simp at hread0
    | [b] => simp at hread1
    | a :: b :: tail =>
      obtain ⟨ds, rest, hn, hds, rfl⟩ := ih tail fun q hq => h (q + 2) (by omega)
      obtain ⟨rfl, rfl⟩ : a = digitByte hi ∧ b = digitByte lo := by simpa using And.intro hread0 hread1
      exact ⟨⟨hi, lo⟩ :: ds, rest, by simp [hn], by simpa [dataDigits_wf_iff, hhi, hlo] using hds, rfl⟩

/-- Every sequence with the layout of R51 is the bytes of a well-formed data frame. -/
theorem exists_frame_of_layout (w : List Byte) (n : Nat) (h : DataFrameLayout w n) :
    ∃ f, f.remote = false ∧ f.wf = true ∧ f.data.length = n ∧ w = frameBytes f := by
  obtain ⟨hi, hhi, hread1⟩ := (hexAt_iff_exists_digit w 1).mp (h.identifier 1 (by omega) (by omega))
  obtain ⟨mid, hmid, hread2⟩ := (hexAt_iff_exists_digit w 2).mp (h.identifier 2 (by omega) (by omega))
  obtain ⟨lo, hlo, hread3⟩ := (hexAt_iff_exists_digit w 3).mp (h.identifier 3 (by omega) (by omega))
  obtain ⟨ds, rest, hn, hds, hdata⟩ := exists_dataBytes n (w.drop 5) fun q hq => by
    simpa [hexAt, Memory.read] using h.data (5 + q) (by omega) (by omega)
  have hlength : hexChar n = BitVec.ofNat 8 (0x30 + n) := by simp [hexChar, Nat.le_succ_of_le h.inRange]
  have hheader : w = dataMarker :: digitByte hi :: digitByte mid :: digitByte lo :: hexChar n :: w.drop 5 :=
    List.ext_getElem? fun p => match p with
      | 0 => h.marker
      | 1 => hread1
      | 2 => hread2
      | 3 => hread3
      | 4 => h.lengthDigit.trans (congrArg some hlength.symm)
      | p + 5 => by simp [Nat.add_comm]
  have hrest : rest = [terminator] := by
    have hsize : rest.length = 1 := by
      have := congrArg List.length hdata
      simp [hn, h.size] at this
      omega
    have hlast : rest[0]? = some terminator := by
      have hread : (w.drop 5)[2 * n]? = some terminator :=
        List.getElem?_drop.trans h.terminator
      simpa [hdata, hn, List.getElem?_append_right] using hread
    obtain ⟨b, rfl⟩ := List.length_eq_one_iff.mp hsize
    simpa using hlast
  refine ⟨⟨false, ⟨hi, mid, lo⟩, ds⟩, rfl, (wireFrame_wf_iff _).mpr ⟨hhi, hmid, hlo, hds⟩, hn, ?_⟩
  rw [hheader, hdata, hrest, ← hn]
  rfl

/-! ### DECODE of a frame -/

/-- Between its first and its last byte a data frame holds hex digits only. -/
theorem DataFrameLayout.hexAt_inside {w : List Byte} {n : Nat} (h : DataFrameLayout w n) (p : Nat) (h1 : 1 ≤ p)
    (hp : p < 5 + 2 * n) : hexAt w p = true := by
  rcases Nat.lt_trichotomy p 4 with h4 | rfl | h4
  · exact h.identifier p h1 (by omega)
  · have key : ∀ n < 9, isHex (BitVec.ofNat 8 (0x30 + n)) = true := by decide
    simpa [hexAt, Memory.read, h.lengthDigit] using key n (Nat.lt_succ_of_le h.inRange)
  · exact h.data p h4 hp

/-- Every byte of a data frame is its marker, a hex digit or its terminator. -/
theorem DataFrameLayout.read_cases {w : List Byte} {n : Nat} (h : DataFrameLayout w n) (p : Nat) (b : Byte)
    (hp : w[p]? = some b) :
    (p = 0 ∧ b = dataMarker) ∨ (1 ≤ p ∧ p < 5 + 2 * n ∧ isHex b = true) ∨ (p = 5 + 2 * n ∧ b = Machine.terminator) := by
  have hsize := h.size
  obtain ⟨hlt, -⟩ := List.getElem?_eq_some_iff.mp hp
  rcases Nat.eq_zero_or_pos p with rfl | h1
  · exact .inl ⟨rfl, Option.some.inj (hp.symm.trans h.marker)⟩
  rcases Nat.lt_or_ge p (5 + 2 * n) with hin | hend
  · obtain ⟨c, hc, hhex⟩ := (hexAt_iff_exists_byte w p).mp (h.hexAt_inside p h1 hin)
    obtain rfl := Option.some.inj (hp.symm.trans hc)
    exact .inr (.inl ⟨h1, hin, hhex⟩)
  · obtain rfl : p = 5 + 2 * n := by omega
    exact .inr (.inr ⟨rfl, Option.some.inj (hp.symm.trans h.terminator)⟩)

theorem DataFrameLayout.lengthAt_eq {w : List Byte} {n : Nat} (h : DataFrameLayout w n) : lengthAt w = n := by
  have key : ∀ n < 9, hexVal (BitVec.ofNat 8 (0x30 + n)) = n := by decide
  simpa [lengthAt, hexValAt, Memory.read, h.lengthDigit] using key n (Nat.lt_succ_of_le h.inRange)

/-- Without a marker there is nothing to decode yet (41_decoder.md R91). -/
theorem decodeWindow_of_markerFree (w : Memory) (h : markerFree w) : decodeWindow w = .incomplete := by
  simp [decodeWindow, (findMarker_eq_none w).mpr h]

/-- The tests of a decode attempt, all passed: the converse of `frame_inv`. -/
theorem decodeWindow_of_checks (w : Memory) (hmarker : w[0]? = some dataMarker)
    (hheader : ∀ q, 1 ≤ q → q ≤ 4 → hexAt w q = true) (hlen : lengthAt w ≤ 8)
    (hdata : ∀ q, 5 ≤ q → q < 5 + 2 * lengthAt w → hexAt w q = true)
    (hend : w[5 + 2 * lengthAt w]? = some terminator) :
    decodeWindow w = .frame (windowMessage w) (6 + 2 * lengthAt w) := by
  obtain ⟨hsize, -⟩ := List.getElem?_eq_some_iff.mp hend
  have h4 := (firstNonHex_eq_none w 1 4).mpr fun q h1 hq => hheader q h1 (by omega)
  have hdigits := (firstNonHex_eq_none w 5 (2 * lengthAt w)).mpr hdata
  have hcomplete : ¬ w.length < 2 * lengthAt w + 5 := by omega
  rw [decodeWindow_at_marker w (by omega) hmarker]
  simp [decodeAtMarker, h4, lenMax, Nat.not_lt.mpr hlen, hcomplete, hdigits, decodeTerminator, Memory.read, hend]
  omega

/-- A window that begins with a data frame is decoded, whatever stands behind the frame. -/
theorem decodeWindow_of_layout (w rest : List Byte) (n : Nat) (h : DataFrameLayout w n) :
    decodeWindow (w ++ rest) = .frame (windowMessage (w ++ rest)) (6 + 2 * n) := by
  have hsize := h.size
  have hhex : ∀ p, 1 ≤ p → p < 5 + 2 * n → hexAt (w ++ rest) p = true := fun p h1 hp => by
    rw [hexAt_append w rest p (by omega)]
    exact h.hexAt_inside p h1 hp
  have hlen : lengthAt (w ++ rest) = n := by
    rw [lengthAt, hexValAt_append w rest 4 (by omega)]
    exact h.lengthAt_eq
  have hread : ∀ p < 6 + 2 * n, (w ++ rest)[p]? = w[p]? := fun p hp => List.getElem?_append_left (by omega)
  have hframe := decodeWindow_of_checks (w ++ rest)
  rw [hlen, hread 0 (by omega), hread (5 + 2 * n) (by omega)] at hframe
  exact hframe h.marker (fun q h1 h4 => hhex q h1 (by omega)) h.inRange (fun q h5 hq => hhex q (by omega) hq)
    h.terminator

/-- A hex digit of value 0 to 8 is the length digit of R51. -/
theorem lengthDigit_of_hexVal (b : Byte) (hhex : isHex b = true) (h : hexVal b ≤ 8) :
    b = BitVec.ofNat 8 (0x30 + hexVal b) := by
  have key : ∀ b : Byte, isHex b = true → hexVal b ≤ 8 → b = BitVec.ofNat 8 (0x30 + hexVal b) := by decide
  exact key b hhex h

/-- What DECODE accepts begins with a data frame, which is what it consumes (41_decoder.md R100). -/
theorem layout_of_decodeWindow (w : Memory) (m : CanMessage) (c : Nat) (h : decodeWindow w = .frame m c) :
    ∃ n, c = 6 + 2 * n ∧ c ≤ w.length ∧ DataFrameLayout (w.take c) n := by
  obtain ⟨hmarker, hheader, hlen, hdata, hend, -, rfl⟩ := frame_inv w m c h
  obtain ⟨hsize, -⟩ := List.getElem?_eq_some_iff.mp hend
  have hread : ∀ p < 6 + 2 * lengthAt w, (w.take (6 + 2 * lengthAt w))[p]? = w[p]? := fun p hp =>
    List.getElem?_take_of_lt hp
  have hhex : ∀ p < 6 + 2 * lengthAt w, hexAt (w.take (6 + 2 * lengthAt w)) p = hexAt w p := fun p hp =>
    congrArg (Option.any isHex) (hread p hp)
  refine ⟨lengthAt w, rfl, by omega, ?_⟩
  constructor
  case size => simp; omega
  case marker => exact (hread 0 (by omega)).trans hmarker
  case identifier => exact fun p h1 h3 => (hhex p (by omega)).trans (hheader p h1 (by omega))
  case lengthDigit =>
    rw [hread 4 (by omega)]
    obtain ⟨b, hb, hhex⟩ := (hexAt_iff_exists_byte w 4).mp (hheader 4 (by omega) (by omega))
    have hvalue : lengthAt w = hexVal b := by simp [lengthAt, hexValAt, Memory.read, hb]
    rw [hvalue] at hlen ⊢
    exact hb.trans (congrArg some (lengthDigit_of_hexVal b hhex hlen))
  case inRange => exact hlen
  case data => exact fun p h5 hp => (hhex p (by omega)).trans (hdata p h5 hp)
  case terminator => exact (hread _ (by omega)).trans hend

/-! ### The message of a frame -/

/-- DECODE reads from a frame's bytes the message the frame carries (R59, R99). -/
theorem windowMessage_frameBytes (f : WireFrame) (rest : List Byte) (hdata : f.remote = false) (hwf : f.wf = true)
    (hn : f.data.length ≤ 8) : windowMessage (frameBytes f ++ rest) = frameMessage f := by
  obtain ⟨hhi, hmid, hlo, hds⟩ := (wireFrame_wf_iff f).mp hwf
  have hidentifier : identifierAt (frameBytes f ++ rest) =
      f.id.hi.value.toNat * 256 + f.id.mid.value.toNat * 16 + f.id.lo.value.toNat := by
    rw [identifierAt, hexValAt_of_digit _ 1 f.id.hi hhi rfl, hexValAt_of_digit _ 2 f.id.mid hmid rfl,
      hexValAt_of_digit _ 3 f.id.lo hlo rfl]
  have hlength : lengthAt (frameBytes f ++ rest) = f.data.length := by
    have hsize := frameBytes_length f
    rw [lengthAt, hexValAt_append _ rest 4 (by omega)]
    exact (frameBytes_layout f hdata hwf hn).lengthAt_eq
  have hbytes : (List.range f.data.length).map (dataAt (frameBytes f ++ rest)) = f.data.map dataDigitsByte := by
    refine List.ext_getElem (by simp) fun j hj _ => ?_
    have hlt : j < f.data.length := by simpa using hj
    obtain ⟨hwfhi, hwflo⟩ := (dataDigits_wf_iff f.data[j]).mp (hds _ (List.getElem_mem hlt))
    obtain ⟨hread0, hread1⟩ := dataBytes_getElem? f.data j
    rw [List.getElem?_eq_getElem hlt] at hread0 hread1
    have hhigh := hexValAt_of_digit (frameBytes f ++ rest) (5 + 2 * j) f.data[j].hi hwfhi (by
      rw [frameBytes_getElem?_data, List.getElem?_append_left (by simp; omega)]; exact hread0)
    have hlow := hexValAt_of_digit (frameBytes f ++ rest) (6 + 2 * j) f.data[j].lo hwflo (by
      rw [show 6 + 2 * j = 5 + (2 * j + 1) by omega, frameBytes_getElem?_data,
        List.getElem?_append_left (by simp; omega)]; exact hread1)
    simp [dataAt, dataDigitsByte, hhigh, hlow]
  rw [windowMessage, hidentifier, hlength, hbytes, frameMessage, hdata]

/-- A window that begins with a well-formed data frame is decoded to its message. -/
theorem decodeWindow_frameBytes (f : WireFrame) (rest : List Byte) (hdata : f.remote = false) (hwf : f.wf = true)
    (hn : f.data.length ≤ 8) :
    decodeWindow (frameBytes f ++ rest) = .frame (frameMessage f) (frameBytes f).length := by
  rw [decodeWindow_of_layout _ rest _ (frameBytes_layout f hdata hwf hn),
    windowMessage_frameBytes f rest hdata hwf hn, frameBytes_length]

/-- DECODE accepts exactly the windows that begin with a well-formed data frame (R51, 41_decoder.md R100). -/
theorem decodeWindow_eq_frame_iff (w : Memory) (m : CanMessage) (c : Nat) :
    decodeWindow w = .frame m c ↔
      ∃ f rest, f.remote = false ∧ f.wf = true ∧ f.data.length ≤ 8 ∧ w = frameBytes f ++ rest ∧
        frameMessage f = m ∧ (frameBytes f).length = c := by
  constructor
  · intro h
    obtain ⟨n, -, -, hlayout⟩ := layout_of_decodeWindow w m c h
    obtain ⟨f, hdata, hwf, rfl, hbytes⟩ := exists_frame_of_layout _ n hlayout
    have hw : w = frameBytes f ++ w.drop c := by rw [← hbytes, List.take_append_drop]
    have hframe := decodeWindow_frameBytes f (w.drop c) hdata hwf hlayout.inRange
    rw [← hw, h] at hframe
    obtain ⟨hm, hc⟩ := DecodeOutcome.frame.inj hframe
    exact ⟨f, w.drop c, hdata, hwf, hlayout.inRange, hw, hm.symm, hc.symm⟩
  · rintro ⟨f, rest, hdata, hwf, hn, rfl, rfl, rfl⟩
    exact decodeWindow_frameBytes f rest hdata hwf hn

end Sys2Proof.Machine
end

section
/-! SUPPORT. DECODE does not see the case of hex letters (30_encoding.md R56). -/

namespace Sys2Proof.Machine

/-! ### A byte and its upper-case form -/

/-- Upper-casing keeps digits, their values and the structural bytes (R56, R58). -/
theorem upperHex_keeps (b : Byte) :
    isHex (upperHex b) = isHex b ∧ hexVal (upperHex b) = hexVal b ∧
      (upperHex b = dataMarker ↔ b = dataMarker) ∧ (upperHex b = terminator ↔ b = terminator) := by
  have key : ∀ b : Byte, isHex (upperHex b) = isHex b ∧ hexVal (upperHex b) = hexVal b ∧
      (upperHex b = dataMarker ↔ b = dataMarker) ∧ (upperHex b = terminator ↔ b = terminator) := by decide
  exact key b

/-! ### A window and its upper-case form -/

theorem read_map_upperHex (w : Memory) (p : Nat) : Memory.read (w.map upperHex) p = (w.read p).map upperHex :=
  List.getElem?_map

theorem hexAt_map_upperHex (w : Memory) (p : Nat) : hexAt (w.map upperHex) p = hexAt w p := by
  rw [hexAt, hexAt, read_map_upperHex]
  cases w.read p with
  | none => rfl
  | some b => exact (upperHex_keeps b).1

theorem hexValAt_map_upperHex (w : Memory) (p : Nat) : hexValAt (w.map upperHex) p = hexValAt w p := by
  rw [hexValAt, hexValAt, read_map_upperHex]
  cases w.read p with
  | none => rfl
  | some b => exact (upperHex_keeps b).2.1

theorem findMarker_map_upperHex (w : Memory) : findMarker (w.map upperHex) = findMarker w := by
  have hmarker : (fun b => b == dataMarker) ∘ upperHex = fun b => b == dataMarker := by
    funext b
    obtain ⟨-, -, hiff, -⟩ := upperHex_keeps b
    rw [Bool.eq_iff_iff]
    simp [hiff]
  rw [findMarker, List.findIdx?_map, hmarker, findMarker]

theorem firstNonHex_map_upperHex (w : Memory) (p n : Nat) : firstNonHex (w.map upperHex) p n = firstNonHex w p n := by
  induction n generalizing p with
  | zero => rfl
  | succ n ih => simp only [firstNonHex, hexAt_map_upperHex, ih]

theorem lengthAt_map_upperHex (w : Memory) : lengthAt (w.map upperHex) = lengthAt w := hexValAt_map_upperHex w 4

theorem windowMessage_map_upperHex (w : Memory) : windowMessage (w.map upperHex) = windowMessage w := by
  have hdata : dataAt (w.map upperHex) = dataAt w := by
    funext j
    simp only [dataAt, hexValAt_map_upperHex]
  simp only [windowMessage, identifierAt, lengthAt_map_upperHex, hexValAt_map_upperHex, hdata]

theorem decodeTerminator_map_upperHex (w : Memory) (q : Nat) :
    decodeTerminator (w.map upperHex) q = decodeTerminator w q := by
  rw [decodeTerminator, decodeTerminator, read_map_upperHex]
  cases w.read q with
  | none => rfl
  | some b =>
    obtain ⟨-, -, -, hiff⟩ := upperHex_keeps b
    simp only [Option.map_some, hiff, windowMessage_map_upperHex]

theorem decodeAtMarker_map_upperHex (w : Memory) : decodeAtMarker (w.map upperHex) = decodeAtMarker w := by
  simp only [decodeAtMarker, firstNonHex_map_upperHex, lengthAt_map_upperHex, List.length_map,
    decodeTerminator_map_upperHex]

/-- DECODE of a window and of its upper-case form is the same (R56). -/
theorem decodeWindow_map_upperHex (w : Memory) : decodeWindow (w.map upperHex) = decodeWindow w := by
  simp only [decodeWindow, List.length_map, findMarker_map_upperHex, decodeAtMarker_map_upperHex]

end Sys2Proof.Machine
end

section
/-! SUPPORT. The frame ENCODE emits for a message (40_encoder.md R80, 30_encoding.md R60). -/

namespace Sys2Proof.Machine

/-! ### The emitted digits -/

/-- The digits ENCODE emits for a data byte. -/
def byteFrameDigits (b : Byte) : DataDigits := ⟨upperDigit (b.toNat / 16), upperDigit (b.toNat % 16)⟩

/-- The frame ENCODE emits: the message's marker, identifier and meaningful bytes, in upper-case digits. -/
def messageFrame (m : CanMessage) : WireFrame where
  remote := m.isRemoteRequest
  id := ⟨upperDigit (m.identifier.toNat / 256), upperDigit (m.identifier.toNat / 16 % 16),
    upperDigit (m.identifier.toNat % 16)⟩
  data := (payload m).map byteFrameDigits

theorem upperDigit_value (v : Nat) (h : v < 16) : (upperDigit v).value.toNat = v := Nat.mod_eq_of_lt h

/-- The digits of a byte are worth the byte (R59, R60). -/
@[simp] theorem dataDigitsByte_byteFrameDigits (b : Byte) : dataDigitsByte (byteFrameDigits b) = b := by
  have hb := b.isLt
  apply BitVec.eq_of_toNat_eq
  simp only [dataDigitsByte, byteFrameDigits, BitVec.toNat_ofNat]
  rw [upperDigit_value _ (by omega), upperDigit_value _ (by omega)]
  omega

theorem dataBytes_byteFrameDigits (bs : List Byte) : dataBytes (bs.map byteFrameDigits) = bs.flatMap byteDigits := by
  induction bs with
  | nil => rfl
  | cons b bs ih =>
    have hb := b.isLt
    have hhi := digitByte_upperDigit (b.toNat / 16) (by omega)
    have hlo := digitByte_upperDigit (b.toNat % 16) (by omega)
    simp [byteFrameDigits, byteDigits, hhi, hlo, ← ih]

/-! ### The meaningful bytes of a message -/

theorem payload_length (m : CanMessage) (h : m.legal) : (payload m).length = m.length.toNat := by
  have h8 : m.length.toNat ≤ 8 := h
  simp [payload, dataList, h8]

/-- At most 8 bytes, made the entries of a message, are its meaningful bytes again. -/
theorem dataList_dataOfList_take (l : List Byte) (h : l.length ≤ 8) : (dataList (dataOfList l)).take l.length = l := by
  have hentries : dataList (dataOfList l) = (List.range 8).map (fun j => l.getD j 0) := rfl
  refine List.ext_getElem (by simp [hentries, h]) fun j hj hjl => ?_
  simp [hentries, hjl]

/-! ### The frame and its bytes -/

theorem messageFrame_wf (m : CanMessage) : (messageFrame m).wf = true := by
  refine (wireFrame_wf_iff _).mpr ⟨rfl, rfl, rfl, fun d hd => ?_⟩
  obtain ⟨b, -, rfl⟩ := List.mem_map.mp hd
  rfl

theorem messageFrame_data_length (m : CanMessage) (h : m.legal) :
    (messageFrame m).data.length = m.length.toNat := by
  simp [messageFrame, payload_length m h]

/-- ENCODE emits the bytes of the message's frame (R80). -/
theorem encodeMessage_eq_frameBytes (m : CanMessage) (h : m.legal) : encodeMessage m = frameBytes (messageFrame m) := by
  have hm := m.identifier.isLt
  have hhi := digitByte_upperDigit (m.identifier.toNat / 256) (by omega)
  have hmid := digitByte_upperDigit (m.identifier.toNat / 16 % 16) (by omega)
  have hlo := digitByte_upperDigit (m.identifier.toNat % 16) (by omega)
  rw [frameBytes_eq, frameBody, messageFrame_data_length m h]
  rw [encodeMessage, identifierDigits, ← hhi, ← hmid, ← hlo, ← dataBytes_byteFrameDigits]
  rfl

/-- The frame ENCODE emits carries the message (R28, R59). -/
theorem frameMessage_messageFrame (m : CanMessage) (h : m.legal) : (frameMessage (messageFrame m)).same m := by
  have hm := m.identifier.isLt
  have hn := payload_length m h
  have h8 : m.length.toNat ≤ 8 := h
  have hlength : (frameMessage (messageFrame m)).length = m.length := by
    simp [frameMessage, messageFrame_data_length m h]
  have hdata : (messageFrame m).data.map dataDigitsByte = payload m := by
    simp [messageFrame, Function.comp_def]
  refine ⟨?_, hlength, rfl, ?_⟩
  · apply BitVec.eq_of_toNat_eq
    simp only [frameMessage, messageFrame, BitVec.toNat_ofNat]
    rw [upperDigit_value _ (by omega), upperDigit_value _ (by omega), upperDigit_value _ (by omega)]
    omega
  · rw [payload, hlength, ← hn]
    simp only [frameMessage, hdata]
    exact dataList_dataOfList_take (payload m) (by omega)

end Sys2Proof.Machine
end

section
/-! SUPPORT. The statements of 30_encoding.md, settled. -/

namespace Sys2Proof.Proofs

open Sys2Proof.Machine

/-- Settles O30: both decoders accept the windows that begin with the bytes of a well-formed data frame, and such a
frame has a T row. -/
theorem decodeAcceptsExactlyTheDataRows : Obligations.DecodeAcceptsExactlyTheDataRows := by
  intro w m c
  rw [decodeWindow_eq_frame_iff]
  constructor
  · rintro ⟨f, rest, hdata, hwf, hn, rfl, hm, rfl⟩
    obtain ⟨i, hrow⟩ := exists_row f hn
    exact ⟨i, f, rest, (decode_row_iff _ rest i f hrow).mpr ⟨hwf, rfl⟩, hrow, hdata, hm, by simp⟩
  · rintro ⟨i, f, rest, hd, hrow, hdata, hm, rfl⟩
    obtain ⟨hwf, rfl⟩ := (decode_row_iff w rest i f hrow).mp hd
    exact ⟨f, rest, hdata, hwf, frame?_data_length i f hrow, rfl, hm, by simp⟩

/-- Settles O2: upper-casing a window changes no test and no value a decode attempt reads. -/
theorem hexValuesIgnoreCase : Obligations.HexValuesIgnoreCase := by
  have hdecimal : ∀ v < 10, hexVal (BitVec.ofNat 8 (0x30 + v)) = v := by decide
  have hletters : ∀ v < 6, hexVal (BitVec.ofNat 8 (0x41 + v)) = 10 + v ∧ hexVal (BitVec.ofNat 8 (0x61 + v)) = 10 + v := by
    decide
  refine ⟨fun v hv => hdecimal v (by omega), fun v hv => hletters v (by omega), fun s => ?_⟩
  exact ⟨_, _, exec_opDecode s, exec_opDecode _, congrArg some (decodeWindow_map_upperHex s.rx).symm⟩

/-- Settles O3: inside a frame stand hex digits only, and no structural byte is one. -/
theorem structuralBytesStandOnceInAFrame : Obligations.StructuralBytesStandOnceInAFrame := by
  refine ⟨by decide, by decide, fun w hw => ?_, fun w n h => ⟨fun p => ?_, fun p => ?_⟩⟩
  · refine decodeWindow_of_markerFree w fun hmem => ?_
    exact absurd (hw dataMarker hmem) (by decide)
  · refine ⟨fun hp => ?_, by rintro rfl; exact h.marker⟩
    rcases h.read_cases p 0x74#8 hp with ⟨rfl, -⟩ | ⟨-, -, hhex⟩ | ⟨-, hb⟩
    · rfl
    · exact absurd hhex (by decide)
    · exact absurd hb (by decide)
  · have hlast : w.length - 1 = 5 + 2 * n := by rw [h.size]; omega
    rw [hlast]
    refine ⟨fun hp => ?_, by rintro rfl; exact h.terminator⟩
    rcases h.read_cases p 0x0D#8 hp with ⟨-, hb⟩ | ⟨-, -, hhex⟩ | ⟨rfl, -⟩
    · exact absurd hb (by decide)
    · exact absurd hhex (by decide)
    · rfl

/-- Settles O6: a row's bytes are its frame's, and a remote frame's differ from the data frame's in the marker only. -/
theorem wireRowsHaveTheTableLayout : Obligations.WireRowsHaveTheTableLayout := by
  intro i f hrow hwf
  rw [wf_of_frame? i f hrow] at hwf
  have hn := frame?_data_length i f hrow
  rw [encode_wire_row i f hrow]
  refine ⟨fun hdata => frameBytes_layout f hdata hwf hn, fun hremote => ⟨frameBody f, ?_, ?_⟩⟩
  · rw [frameBytes_eq, hremote]
    rfl
  · exact frameBytes_layout { f with remote := false } rfl hwf hn

/-- Settles O18: the row is that of the frame whose digits ENCODE emits. -/
theorem encodeEmitsAWireRow : Obligations.EncodeEmitsAWireRow := by
  intro s hlegal
  have hlength := messageFrame_data_length s.msgIn hlegal
  have h8 : s.msgIn.length.toNat ≤ 8 := hlegal
  obtain ⟨i, hrow⟩ := exists_row (messageFrame s.msgIn) (by omega)
  have hwf := (wf_of_frame? i _ hrow).trans (messageFrame_wf s.msgIn)
  have htx := (encodeMessage_eq_frameBytes s.msgIn hlegal).trans (encode_wire_row i _ hrow).symm
  exact ⟨_, i, messageFrame s.msgIn, (exec_opEncode s).trans (if_pos h8), hrow, hwf, congrArg some htx, rfl, hlength,
    frameMessage_messageFrame s.msgIn hlegal⟩

/-- Settles O1: the 22 digits byte by byte, and the emitted digit in its two ranges. -/
theorem hexDigitsInAndOut : Obligations.HexDigitsInAndOut := by
  have hback : ∀ v < 16, hexVal (hexChar v) = v := by decide
  refine ⟨by decide, fun v h9 => if_pos h9, fun v h10 h15 => ?_, fun v h15 => hback v (by omega)⟩
  rw [hexChar, if_neg (by omega), Nat.add_sub_assoc h10]

/-- Settles O7: each word, decoded. -/
theorem specWordsDecodeToTheirRows : Obligations.SpecWordsDecodeToTheirRows := by
  unfold Obligations.SpecWordsDecodeToTheirRows
  decide

/-- Settles O8, from what a step does with each kind of request. -/
theorem stepRunsTheInstructionDecoded : Obligations.StepRunsTheInstructionDecoded := by
  intro s
  refine ⟨fun c rx m rest i hp hd => ?_, fun chunk rest i f hp hd hrow => ?_, step_idle s⟩
  · rw [step_command s c rx m rest hp, decodeCommand_of_decode c i hd]
  · have hwire := decodeWire_of_decode chunk [] i f hd hrow
    rcases step_wireChunk s chunk rest hp with ⟨j, hj, hstep⟩ | ⟨hnone, -⟩
    · obtain rfl : i = j := by simpa [hwire] using hj
      exact hstep
    · exact absurd hwire (hnone i)

/-- Settles O10: the idle code only drives the ports, the reserved codes select nothing. -/
theorem idleAndReservedCodes : Obligations.IdleAndReservedCodes := by
  intro s rx m
  exact ⟨⟨_, step_command _ 0b000#3 rx m s.pending rfl, rfl, rfl, rfl, rfl, rfl⟩,
    step_command _ 0b110#3 rx m s.pending rfl, step_command _ 0b111#3 rx m s.pending rfl⟩

end Sys2Proof.Proofs
end

section
/-! SUPPORT. When ENCODE answers, and the shape of what it puts on TX (40_encoder.md R80, R82, R84). -/

namespace Sys2Proof.Machine

/-- ENCODE answers for legal messages only, and writes port TX (R80, R84). -/
theorem exec_opEncode_eq_next_iff (s t : State) :
    exec .opEncode s = .next t ↔ s.msgIn.legal ∧ { s with tx := some (encodeMessage s.msgIn) } = t := by
  rw [exec_opEncode]
  split
  case isTrue hlegal => exact ⟨fun h => ⟨hlegal, Host.Outcome.next.inj h⟩, fun ⟨_, ht⟩ => congrArg _ ht⟩
  case isFalse hlong => exact ⟨nofun, fun ⟨hlegal, _⟩ => absurd hlegal hlong⟩

/-- A legal message's meaningful bytes, entry by entry. -/
theorem payload_eq_map_dataEntry (m : CanMessage) (h : m.legal) :
    payload m = (List.range m.length.toNat).map (dataEntry m.data) := by
  have hentries : dataList m.data = (List.range 8).map (dataEntry m.data) := rfl
  have h8 : m.length.toNat ≤ 8 := h
  rw [payload, hentries, ← List.map_take, List.take_range, Nat.min_eq_left h8]

/-- The characters ENCODE emits between the marker and the terminator. -/
def encodedDigits (m : CanMessage) : List Byte :=
  identifierDigits m ++ hexChar m.length.toNat :: (payload m).flatMap byteDigits

theorem encodeMessage_eq (m : CanMessage) :
    encodeMessage m =
      (if m.isRemoteRequest then remoteMarker else dataMarker) :: (encodedDigits m ++ [terminator]) := by
  simp [encodeMessage, encodedDigits]

theorem exists_hexChar_of_mem_byteDigits (x b : Byte) (h : b ∈ byteDigits x) : ∃ v, v ≤ 15 ∧ b = hexChar v := by
  have hx := x.isLt
  rcases List.mem_pair.mp h with hhi | hlo
  · exact ⟨_, by omega, hhi⟩
  · exact ⟨_, by omega, hlo⟩

theorem exists_hexChar_of_mem_identifierDigits (m : CanMessage) (b : Byte) (h : b ∈ identifierDigits m) :
    ∃ v, v ≤ 15 ∧ b = hexChar v := by
  have hid := m.identifier.isLt
  simp only [identifierDigits, List.mem_cons, List.not_mem_nil, or_false] at h
  rcases h with hhi | hmid | hlo
  · exact ⟨_, by omega, hhi⟩
  · exact ⟨_, by omega, hmid⟩
  · exact ⟨_, by omega, hlo⟩

/-- Upper-case hex digits only, whatever the length field (R82). -/
theorem exists_hexChar_of_mem_encodedDigits (m : CanMessage) (b : Byte) (h : b ∈ encodedDigits m) :
    ∃ v, v ≤ 15 ∧ b = hexChar v := by
  simp only [encodedDigits, List.mem_append, List.mem_cons, List.mem_flatMap] at h
  rcases h with hid | hlength | ⟨x, -, hdata⟩
  · exact exists_hexChar_of_mem_identifierDigits m b hid
  · exact ⟨_, Nat.le_of_lt_succ m.length.isLt, hlength⟩
  · exact exists_hexChar_of_mem_byteDigits x b hdata

theorem encodeMessage_length (m : CanMessage) (h : m.legal) : (encodeMessage m).length = 6 + 2 * m.length.toNat := by
  rw [encodeMessage_eq_frameBytes m h, frameBytes_length, messageFrame_data_length m h]

/-- Every byte ENCODE emits but the first and the last is an upper-case hex digit (R82). -/
theorem exists_hexChar_inside_encodeMessage (m : CanMessage) (p : Nat) (b : Byte) (h0 : 0 < p)
    (hp : p < (encodeMessage m).length - 1) (hb : (encodeMessage m)[p]? = some b) : ∃ v, v ≤ 15 ∧ b = hexChar v := by
  obtain ⟨q, rfl⟩ := Nat.exists_eq_succ_of_ne_zero h0.ne'
  have hq : q < (encodedDigits m).length := by simpa [encodeMessage_eq] using hp
  rw [encodeMessage_eq, List.getElem?_cons_succ, List.getElem?_append_left hq] at hb
  exact exists_hexChar_of_mem_encodedDigits m b (List.mem_of_getElem? hb)

theorem legal_of_same (a b : CanMessage) (h : a.same b) (hb : b.legal) : a.legal := by
  obtain ⟨-, hlength, -, -⟩ := h
  exact (congrArg BitVec.toNat hlength).trans_le hb

/-- Messages equal in the sense of R28 have the same encoding (R82). -/
theorem encodeMessage_eq_of_same (a b : CanMessage) (h : a.same b) : encodeMessage a = encodeMessage b := by
  obtain ⟨hid, hlength, hremote, hpayload⟩ := h
  simp only [encodeMessage, identifierDigits, hid, hlength, hremote, hpayload]

end Sys2Proof.Machine
end

section
/-! SUPPORT. The statements of 40_encoder.md, settled. -/

namespace Sys2Proof.Proofs

open Sys2Proof.Machine

/-- Settles O15: ENCODE's bytes, with the message's meaningful bytes read entry by entry. -/
theorem encodeEmitsTheFrameBytes : Obligations.EncodeEmitsTheFrameBytes := by
  intro s hlegal
  refine ⟨_, (exec_opEncode_eq_next_iff s _).mpr ⟨hlegal, rfl⟩, rfl, rfl, rfl, congrArg some ?_⟩
  rw [encodeMessage, payload_eq_map_dataEntry s.msgIn hlegal, List.flatMap_map]
  rfl

/-- Settles O17: the marker, upper-case digits and the terminator, none of which reads more of the message than R28
compares. -/
theorem encodeOutputShape : Obligations.EncodeOutputShape := by
  intro s t h
  obtain ⟨hlegal, rfl⟩ := (exec_opEncode_eq_next_iff s t).mp h
  refine ⟨encodeMessage s.msgIn, rfl, encodeMessage_length s.msgIn hlegal, ?_, ?_,
    exists_hexChar_inside_encodeMessage s.msgIn, fun u hsame => ?_⟩
  · rw [encodeMessage_eq]
    cases s.msgIn.isRemoteRequest with
    | false => exact .inl rfl
    | true => exact .inr rfl
  · simp [encodeMessage_eq, terminator]
  · have hu : u.msgIn.legal := legal_of_same _ _ hsame hlegal
    exact ⟨_, (exec_opEncode_eq_next_iff u _).mpr ⟨hu, rfl⟩, congrArg some (encodeMessage_eq_of_same _ _ hsame)⟩

/-- Settles O16: the length test of ENCODE fails. -/
theorem encodeRefusesALengthAboveEight : Obligations.EncodeRefusesALengthAboveEight := by
  intro s hlong
  rw [exec_opEncode, if_neg (Nat.not_le.mpr hlong)]

/-- Settles O19: either operation's next state is a record update of its own result port. -/
theorem codecFrame : Obligations.CodecFrame := by
  refine fun s t => ⟨fun h => ?_, ⟨_, exec_opDecode s⟩, fun h a => ?_⟩
  · obtain ⟨-, rfl⟩ := (exec_opEncode_eq_next_iff s t).mp h
    exact ⟨fun _ => rfl, rfl⟩
  · obtain rfl := Host.Outcome.next.inj ((exec_opDecode s).symm.trans h)
    rfl

end Sys2Proof.Proofs
end

section
/-! SUPPORT. The list of 41_decoder.md R100 as one relation between a window and its outcome: DECODE answers the
outcomes of the list, each on exactly the windows the list gives it. -/

namespace Sys2Proof.Machine

/-! ### Behind a valid header -/

theorem HeaderAt.five_le_length {w : Memory} {len : Nat} (h : HeaderAt w len) : 5 ≤ w.length :=
  lt_length_of_hexAt w 4 (h.digits 4 (by omega) le_rfl)

/-- Behind a valid header the attempt is the tests of R96 to R98, for the length the header announces. -/
theorem HeaderAt.decodeWindow_eq {w : Memory} {len : Nat} (h : HeaderAt w len) :
    decodeWindow w = if w.length < 2 * len + 5 then .incomplete
      else (firstNonHex w 5 (2 * len)).elim (decodeTerminator w (5 + 2 * len)) .skipPrefix := by
  have hdigits := (firstNonHex_eq_none w 1 4).mpr fun q h1 hq => h.digits q h1 (by omega)
  have hrange : ¬ lenMax < len := Nat.not_lt.mpr h.inRange
  rw [decodeWindow_at_marker w h.five_le_length h.marker]
  simp only [decodeAtMarker, hdigits, h.length, hrange, if_false]
  cases firstNonHex w 5 (2 * len) <;> rfl

/-- Behind a valid header and its data digits the attempt is step 5 (R98). -/
theorem HeaderAt.decodeWindow_eq_decodeTerminator {w : Memory} {len : Nat} (h : HeaderAt w len)
    (hsize : 5 + 2 * len ≤ w.length) (hdata : ∀ q, 5 ≤ q → q < 5 + 2 * len → hexAt w q = true) :
    decodeWindow w = decodeTerminator w (5 + 2 * len) := by
  rw [h.decodeWindow_eq, if_neg (by omega), (firstNonHex_eq_none w 5 _).mpr hdata]
  rfl

/-! ### The list of R100 -/

/-- R100's list: each outcome with the condition it is returned on, in the order of the tests (R103). -/
inductive Decides (w : Memory) : DecodeOutcome → Prop where
  /-- R91 -/
  | short : w.length < 5 → Decides w .incomplete
  /-- R91 -/
  | unmarked : 5 ≤ w.length → markerFree w → Decides w .incomplete
  /-- R92 -/
  | noise (k : Nat) : 5 ≤ w.length → 0 < k → w[k]? = some dataMarker → markerFree (w.take k) →
      Decides w (.skipPrefix k)
  /-- R94 -/
  | headerDigit (p : Nat) : 5 ≤ w.length → w[0]? = some dataMarker → 1 ≤ p → p ≤ 4 →
      (∀ q, 1 ≤ q → q < p → hexAt w q = true) → hexAt w p = false → Decides w (.skipPrefix p)
  /-- R95 -/
  | lengthDigit : 5 ≤ w.length → w[0]? = some dataMarker → (∀ q, 1 ≤ q → q ≤ 4 → hexAt w q = true) →
      8 < lengthAt w → Decides w (.skipPrefix 4)
  /-- R96 -/
  | fewBytes (len : Nat) : HeaderAt w len → w.length < 2 * len + 5 → Decides w .incomplete
  /-- R97 -/
  | dataDigit (len p : Nat) : HeaderAt w len → 2 * len + 5 ≤ w.length → 5 ≤ p → p < 5 + 2 * len →
      (∀ q, 5 ≤ q → q < p → hexAt w q = true) → hexAt w p = false → Decides w (.skipPrefix p)
  /-- R98, nothing there yet -/
  | unterminated (len : Nat) : HeaderAt w len → (∀ q, 5 ≤ q → q < 5 + 2 * len → hexAt w q = true) →
      w.length = 5 + 2 * len → Decides w .incomplete
  /-- R98, another byte -/
  | otherByte (len : Nat) (b : Byte) : HeaderAt w len → (∀ q, 5 ≤ q → q < 5 + 2 * len → hexAt w q = true) →
      w[5 + 2 * len]? = some b → b ≠ terminator → Decides w (.skipPrefix (5 + 2 * len))
  /-- R98 and R99 -/
  | frame (len : Nat) : HeaderAt w len → (∀ q, 5 ≤ q → q < 5 + 2 * len → hexAt w q = true) →
      w[5 + 2 * len]? = some terminator → Decides w (.frame (windowMessage w) (6 + 2 * len))

/-- DECODE answers what the list says. -/
theorem Decides.decodeWindow_eq {w : Memory} {o : DecodeOutcome} (h : Decides w o) : decodeWindow w = o := by
  cases h with
  | short hshort => exact if_pos hshort
  | unmarked _ hfree => exact decodeWindow_of_markerFree w hfree
  | noise k hsize hk hmarker hfree =>
    obtain ⟨k, rfl⟩ := Nat.exists_eq_add_one_of_ne_zero hk.ne'
    have hfirst := (findMarker_eq_some w (k + 1)).mpr ⟨hmarker, hfree⟩
    simp [decodeWindow, minWindow, Nat.not_lt.mpr hsize, hfirst]
  | headerDigit p hsize hmarker h1 h4 hbefore hp =>
    have hfirst := (firstNonHex_eq_some w 1 4 p).mpr ⟨h1, by omega, hp, hbefore⟩
    rw [decodeWindow_at_marker w hsize hmarker]
    simp [decodeAtMarker, hfirst]
  | lengthDigit hsize hmarker hdigits hlen =>
    have hheader := (firstNonHex_eq_none w 1 4).mpr fun q h1 hq => hdigits q h1 (by omega)
    rw [decodeWindow_at_marker w hsize hmarker]
    simp [decodeAtMarker, hheader, lenMax, hlen]
  | fewBytes len header hshort => rw [header.decodeWindow_eq, if_pos hshort]
  | dataDigit len p header hsize h5 hlt hbefore hp =>
    rw [header.decodeWindow_eq, if_neg (by omega), (firstNonHex_eq_some w 5 _ p).mpr ⟨h5, hlt, hp, hbefore⟩]
    rfl
  | unterminated len header hdata hsize =>
    rw [header.decodeWindow_eq_decodeTerminator hsize.ge hdata]
    simp [decodeTerminator, Memory.read, hsize]
  | otherByte len b header hdata hb hne =>
    have hlt := (List.getElem?_eq_some_iff.mp hb).1
    rw [header.decodeWindow_eq_decodeTerminator hlt.le hdata]
    simp [decodeTerminator, Memory.read, hb, hne]
  | frame len header hdata hend =>
    obtain ⟨hmarker, hdigits, rfl, hlen⟩ := header
    exact decodeWindow_of_checks w hmarker hdigits hlen hdata hend

/-- The list covers every window (R101). -/
theorem decides_decodeWindow (w : Memory) : Decides w (decodeWindow w) := by
  rcases decodeWindow_cases w with ⟨hshort, hd⟩ | ⟨hsize, hfree, hd⟩ | ⟨k, hsize, hk, hmarker, hfree, hd⟩ |
    ⟨hsize, hmarker, hd⟩
  · exact hd ▸ .short hshort
  · exact hd ▸ .unmarked hsize hfree
  · exact hd ▸ .noise k hsize hk hmarker hfree
  rw [hd]
  rcases decodeAtMarker_cases w with ⟨p, h1, h4, hp, hbefore, hd⟩ | ⟨hdigits, htests⟩
  · exact hd ▸ .headerDigit p hsize hmarker h1 h4 hbefore hp
  rcases Nat.lt_or_ge 8 (lengthAt w) with hlong | hlen
  · obtain ⟨-, hd⟩ | ⟨hlen, -⟩ | ⟨p, hlen, -⟩ | ⟨hlen, -⟩ := htests
    · exact hd ▸ .lengthDigit hsize hmarker hdigits hlong
    all_goals omega
  have header : HeaderAt w (lengthAt w) := ⟨hmarker, hdigits, rfl, hlen⟩
  rcases htests with ⟨hlong, -⟩ | ⟨-, hshort, hd⟩ | ⟨p, -, hsize, h5, hlt, hp, hbefore, hd⟩ | ⟨-, hsize, hdata, hd⟩
  · omega
  · exact hd ▸ .fewBytes _ header hshort
  · exact hd ▸ .dataDigit _ p header hsize h5 (by omega) hbefore hp
  rw [hd]
  rcases decodeTerminator_cases w (5 + 2 * lengthAt w) with ⟨hend, ht⟩ | ⟨b, hb, hne, ht⟩ | ⟨hend, ht⟩
  · exact ht ▸ .unterminated _ header hdata (by omega)
  · exact ht ▸ .otherByte _ b header hdata hb hne
  · rw [ht, show 5 + 2 * lengthAt w + 1 = 6 + 2 * lengthAt w by omega]
    exact .frame _ header hdata hend

/-- R100: each outcome is returned exactly under its condition in the list. -/
theorem decides_iff (w : Memory) (o : DecodeOutcome) : Decides w o ↔ decodeWindow w = o :=
  ⟨Decides.decodeWindow_eq, fun h => h ▸ decides_decodeWindow w⟩

/-! ### The windows of each outcome -/

/-- The four conditions of `Incomplete` (R100). -/
theorem decodeWindow_eq_incomplete_iff (w : Memory) : decodeWindow w = .incomplete ↔
    w.length < 5 ∨ (5 ≤ w.length ∧ markerFree w) ∨
    (∃ len, 5 ≤ w.length ∧ HeaderAt w len ∧ w.length < 2 * len + 5) ∨
    (∃ len, HeaderAt w len ∧ w.length = 2 * len + 5 ∧ ∀ p, 5 ≤ p → p ≤ 2 * len + 4 → hexAt w p = true) := by
  rw [← decides_iff]
  constructor
  · intro h
    cases h with
    | short hshort => exact .inl hshort
    | unmarked hsize hfree => exact .inr (.inl ⟨hsize, hfree⟩)
    | fewBytes len header hshort => exact .inr (.inr (.inl ⟨len, header.five_le_length, header, hshort⟩))
    | unterminated len header hdata hsize =>
      exact .inr (.inr (.inr ⟨len, header, by omega, fun p h5 hp => hdata p h5 (by omega)⟩))
  · rintro (hshort | ⟨hsize, hfree⟩ | ⟨len, -, header, hshort⟩ | ⟨len, header, hsize, hdata⟩)
    · exact .short hshort
    · exact .unmarked hsize hfree
    · exact .fewBytes len header hshort
    · exact .unterminated len header (fun p h5 hp => hdata p h5 (by omega)) (by omega)

/-- The five conditions of `SkipPrefix(n)` (R100). -/
theorem decodeWindow_eq_skipPrefix_iff (w : Memory) (n : Nat) : decodeWindow w = .skipPrefix n ↔
    5 ≤ w.length ∧
    ((0 < n ∧ w[n]? = some dataMarker ∧ markerFree (w.take n)) ∨
     (w[0]? = some dataMarker ∧ 1 ≤ n ∧ n ≤ 4 ∧ (∀ q, 1 ≤ q → q < n → hexAt w q = true) ∧ hexAt w n = false) ∨
     (w[0]? = some dataMarker ∧ n = 4 ∧ (∀ q, 1 ≤ q → q ≤ 4 → hexAt w q = true) ∧ 8 < lengthAt w) ∨
     (∃ len, HeaderAt w len ∧ 2 * len + 5 ≤ w.length ∧ 5 ≤ n ∧ n ≤ 2 * len + 4 ∧
       (∀ q, 5 ≤ q → q < n → hexAt w q = true) ∧ hexAt w n = false) ∨
     (∃ len b, HeaderAt w len ∧ n = 2 * len + 5 ∧ (∀ q, 5 ≤ q → q < n → hexAt w q = true) ∧
       w[n]? = some b ∧ b ≠ terminator)) := by
  rw [← decides_iff]
  constructor
  · intro h
    cases h with
    | noise _ hsize hk hmarker hfree => exact ⟨hsize, .inl ⟨hk, hmarker, hfree⟩⟩
    | headerDigit _ hsize hmarker h1 h4 hbefore hn => exact ⟨hsize, .inr (.inl ⟨hmarker, h1, h4, hbefore, hn⟩)⟩
    | lengthDigit hsize hmarker hdigits hlen => exact ⟨hsize, .inr (.inr (.inl ⟨hmarker, rfl, hdigits, hlen⟩))⟩
    | dataDigit len _ header hsize h5 hlt hbefore hn =>
      exact ⟨header.five_le_length, .inr (.inr (.inr (.inl ⟨len, header, hsize, h5, by omega, hbefore, hn⟩)))⟩
    | otherByte len b header hdata hb hne =>
      exact ⟨header.five_le_length, .inr (.inr (.inr (.inr ⟨len, b, header, by omega, hdata, hb, hne⟩)))⟩
  · rintro ⟨hsize, ⟨hk, hmarker, hfree⟩ | ⟨hmarker, h1, h4, hbefore, hn⟩ | ⟨hmarker, rfl, hdigits, hlen⟩ |
      ⟨len, header, hbytes, h5, hlt, hbefore, hn⟩ | ⟨len, b, header, hn, hdata, hb, hne⟩⟩
    · exact .noise n hsize hk hmarker hfree
    · exact .headerDigit n hsize hmarker h1 h4 hbefore hn
    · exact .lengthDigit hsize hmarker hdigits hlen
    · exact .dataDigit len n header hbytes h5 (by omega) hbefore hn
    · obtain rfl : n = 5 + 2 * len := by omega
      exact .otherByte len b header hdata hb hne

/-- A frame of `c` bytes is decoded exactly where the first `c` bytes have the layout of R51 (R100). -/
theorem exists_decodeWindow_eq_frame_iff (w : Memory) (c : Nat) : (∃ m, decodeWindow w = .frame m c) ↔
    ∃ n, c = 6 + 2 * n ∧ c ≤ w.length ∧ DataFrameLayout (w.take c) n := by
  constructor
  · rintro ⟨m, h⟩
    exact layout_of_decodeWindow w m c h
  · rintro ⟨n, rfl, -, hlayout⟩
    have hframe := decodeWindow_of_layout _ (w.drop (6 + 2 * n)) n hlayout
    rw [List.take_append_drop] at hframe
    exact ⟨_, hframe⟩

/-! ### Longer windows -/

theorem hexAt_append_of_hexAt {w : Memory} {p : Nat} (q : List Byte) (h : hexAt w p = true) :
    hexAt (w ++ q) p = true :=
  (hexAt_append w q p (lt_length_of_hexAt w p h)).trans h

theorem getElem?_append_of_eq_some {w : Memory} {p : Nat} {b : Byte} (q : List Byte) (h : w[p]? = some b) :
    (w ++ q)[p]? = some b :=
  (List.getElem?_append_left (List.getElem?_eq_some_iff.mp h).1).trans h

/-- A valid header stays one when bytes arrive behind it. -/
theorem HeaderAt.append {w : Memory} {len : Nat} (h : HeaderAt w len) (q : List Byte) : HeaderAt (w ++ q) len where
  marker := getElem?_append_of_eq_some q h.marker
  digits := fun p h1 h4 => hexAt_append_of_hexAt q (h.digits p h1 h4)
  length := (hexValAt_append w q 4 h.five_le_length).trans h.length
  inRange := h.inRange

/-- The condition of a skip reads no byte past the one it skips to, but for the count of R96, which only grows. -/
theorem Decides.skip_append {w : Memory} {n : Nat} (h : Decides w (.skipPrefix n)) (q : List Byte) :
    Decides (w ++ q) (.skipPrefix n) := by
  have hlonger : w.length ≤ (w ++ q).length := by simp
  cases h with
  | noise k hsize hk hmarker hfree =>
    have hlt := (List.getElem?_eq_some_iff.mp hmarker).1
    refine .noise n (hsize.trans hlonger) hk (getElem?_append_of_eq_some q hmarker) ?_
    rwa [List.take_append_of_le_length hlt.le]
  | headerDigit p hsize hmarker h1 h4 hbefore hp =>
    exact .headerDigit n (hsize.trans hlonger) (getElem?_append_of_eq_some q hmarker) h1 h4
      (fun r hr hrn => hexAt_append_of_hexAt q (hbefore r hr hrn)) ((hexAt_append w q n (by omega)).trans hp)
  | lengthDigit hsize hmarker hdigits hlen =>
    exact .lengthDigit (hsize.trans hlonger) (getElem?_append_of_eq_some q hmarker)
      (fun r hr hrn => hexAt_append_of_hexAt q (hdigits r hr hrn))
      (hlen.trans_eq (hexValAt_append w q 4 hsize).symm)
  | dataDigit len p header hsize h5 hlt hbefore hp =>
    exact .dataDigit len n (header.append q) (hsize.trans hlonger) h5 hlt
      (fun r hr hrn => hexAt_append_of_hexAt q (hbefore r hr hrn)) ((hexAt_append w q n (by omega)).trans hp)
  | otherByte len b header hdata hb hne =>
    exact .otherByte len b (header.append q) (fun r hr hrn => hexAt_append_of_hexAt q (hdata r hr hrn))
      (getElem?_append_of_eq_some q hb) hne

/-- A decoded frame stays one, with its message, when bytes arrive behind it (R102). -/
theorem decodeWindow_append_of_frame {w : Memory} {m : CanMessage} {c : Nat} (h : decodeWindow w = .frame m c)
    (q : List Byte) : decodeWindow (w ++ q) = .frame m c := by
  obtain ⟨f, rest, hdata, hwf, hn, rfl, hm, hc⟩ := (decodeWindow_eq_frame_iff w m c).mp h
  exact (decodeWindow_eq_frame_iff _ m c).mpr ⟨f, rest ++ q, hdata, hwf, hn, List.append_assoc _ _ _, hm, hc⟩

end Sys2Proof.Machine
end

section
/-! SUPPORT. The message of a decoded frame, field by field (41_decoder.md R93, R97, R99). -/

namespace Sys2Proof.Machine

/-! ### Fields and their widths -/

/-- The entries of a message's data are the meaningful bytes, 0x00 past them (R99). -/
theorem dataEntry_dataOfList (l : List Byte) (j : Nat) (h : j ≤ 7) : dataEntry (dataOfList l) j = l.getD j 0 := by
  interval_cases j <;> rfl

/-- A data byte holds its two digits without loss, high nibble first (R97). -/
theorem dataAt_toNat (w : Memory) (j : Nat) (hhi : hexAt w (5 + 2 * j) = true) (hlo : hexAt w (6 + 2 * j) = true) :
    (dataAt w j).toNat = hexValAt w (5 + 2 * j) * 16 + hexValAt w (6 + 2 * j) := by
  have hhigh := hexValAt_lt w _ hhi
  have hlow := hexValAt_lt w _ hlo
  rw [dataAt, BitVec.toNat_ofNat, Nat.mod_eq_of_lt (by omega)]

theorem HeaderAt.windowMessage_length {w : Memory} {len : Nat} (h : HeaderAt w len) :
    (windowMessage w).length.toNat = len := by
  have hrange := h.inRange
  rw [windowMessage, h.length, BitVec.toNat_ofNat, Nat.mod_eq_of_lt (by omega)]

theorem HeaderAt.windowMessage_identifier {w : Memory} {len : Nat} (h : HeaderAt w len) :
    (windowMessage w).identifier.toNat = identifierAt w := by
  have h1 := hexValAt_lt w 1 (h.digits 1 (by omega) (by omega))
  have h2 := hexValAt_lt w 2 (h.digits 2 (by omega) (by omega))
  have h3 := hexValAt_lt w 3 (h.digits 3 (by omega) (by omega))
  have hfits : identifierAt w < 2 ^ 12 := by rw [identifierAt]; omega
  rw [windowMessage, BitVec.toNat_ofNat, Nat.mod_eq_of_lt hfits]

theorem HeaderAt.windowMessage_dataEntry {w : Memory} {len : Nat} (h : HeaderAt w len) (j : Nat) (hj : j < len) :
    dataEntry (windowMessage w).data j = dataAt w j := by
  have hrange := h.inRange
  rw [windowMessage, h.length, dataEntry_dataOfList _ j (by omega)]
  simp [List.getD_eq_getElem?_getD, hj]

theorem HeaderAt.windowMessage_dataEntry_past {w : Memory} {len : Nat} (h : HeaderAt w len) (j : Nat) (hj : len ≤ j)
    (h7 : j ≤ 7) : dataEntry (windowMessage w).data j = 0x00#8 := by
  rw [windowMessage, h.length, dataEntry_dataOfList _ j h7]
  simp [List.getD_eq_getElem?_getD, hj]

/-! ### What a frame outcome says of its message -/

/-- The fields of a decoded message (R99), and the digits its data bytes come from (R97). -/
structure DecodedFrom (w : Memory) (m : CanMessage) (c : Nat) : Prop where
  identifier : m.identifier.toNat = identifierAt w
  length : m.length.toNat = lengthAt w
  legal : m.legal
  digits : ∀ j, j < m.length.toNat → hexAt w (5 + 2 * j) = true ∧ hexAt w (6 + 2 * j) = true
  data : ∀ j, j < m.length.toNat → dataEntry m.data j = dataAt w j
  padding : ∀ j, m.length.toNat ≤ j → j ≤ 7 → dataEntry m.data j = 0x00#8
  notRemote : m.isRemoteRequest = false
  consumed : c = 6 + 2 * m.length.toNat

theorem decodedFrom_of_decodeWindow {w : Memory} {m : CanMessage} {c : Nat} (h : decodeWindow w = .frame m c) :
    DecodedFrom w m c := by
  cases (decides_iff w _).mpr h with
  | frame len header hdata _ =>
    have hlen := header.windowMessage_length
    constructor
    case identifier => exact header.windowMessage_identifier
    case length => exact hlen.trans header.length.symm
    case legal => exact hlen.trans_le header.inRange
    case digits => exact fun j hj => ⟨hdata _ (by omega) (by omega), hdata _ (by omega) (by omega)⟩
    case data => exact fun j hj => header.windowMessage_dataEntry j (hlen ▸ hj)
    case padding => exact fun j hj h7 => header.windowMessage_dataEntry_past j (hlen ▸ hj) h7
    case notRemote => rfl
    case consumed => rw [hlen]

/-- The value of a decoded data byte from its two digits (R97). -/
theorem DecodedFrom.dataEntry_toNat {w : Memory} {m : CanMessage} {c : Nat} (h : DecodedFrom w m c) (j : Nat)
    (hj : j < m.length.toNat) :
    (dataEntry m.data j).toNat = hexValAt w (5 + 2 * j) * 16 + hexValAt w (6 + 2 * j) := by
  obtain ⟨hhi, hlo⟩ := h.digits j hj
  rw [h.data j hj, dataAt_toNat w j hhi hlo]

/-- Every message the loop delivers was decoded from a window (42_reassembler.md R113). -/
theorem exists_decodedFrom_of_mem_drain (r : Memory) : ∀ m ∈ (drain r).messages, ∃ w c, DecodedFrom w m c := by
  refine drain_induction (fun _ d => ∀ m ∈ d.messages, ∃ w c, DecodedFrom w m c) ?stop ?skip ?frame r
  case stop => simp
  case skip => exact fun _ _ _ ih => ih
  case frame =>
    intro r m c hframe ih m' hm'
    rcases List.mem_cons.mp hm' with rfl | hrest
    · exact ⟨r, c, decodedFrom_of_decodeWindow hframe⟩
    · exact ih m' hrest

/-! ### The operation DECODE -/

/-- The operation DECODE puts on port OUTCOME what the attempt on port RX gives (R90). -/
theorem exec_opDecode_outcome_iff (s : State) (o : DecodeOutcome) :
    (∃ t, exec .opDecode s = .next t ∧ t.outcome = some o) ↔ decodeWindow s.rx = o := by
  simp

end Sys2Proof.Machine
end

section
/-! SUPPORT. The statements of 41_decoder.md, settled. -/

namespace Sys2Proof.Proofs

open Sys2Proof.Machine

/-- Settles O28: the list of R100 outcome by outcome, a skip inside its window, and the fields of a decoded message. -/
theorem decodeOutcomesExactly : Obligations.DecodeOutcomesExactly := by
  intro w
  refine ⟨decodeWindow_eq_incomplete_iff w, decodeWindow_eq_skipPrefix_iff w, fun n h => ?_,
    exists_decodeWindow_eq_frame_iff w, fun m c h => ?_⟩
  · obtain ⟨h1, hlt⟩ := skip_progress w n h
    exact ⟨h1, Nat.le_sub_one_of_lt hlt⟩
  · have hm := decodedFrom_of_decodeWindow h
    exact ⟨hm.consumed, hm.identifier, hm.length, hm.data⟩

/-- Settles O20: the two conditions of R91. -/
theorem decodeShortOrUnmarkedWindow : Obligations.DecodeShortOrUnmarkedWindow := by
  intro s h
  rw [exec_opDecode_outcome_iff]
  rcases h with hshort | hfree
  · exact (Decides.short hshort).decodeWindow_eq
  · exact decodeWindow_of_markerFree s.rx hfree

/-- Settles O21: a marker stands inside the window, so the skip leaves it there. -/
theorem decodeSkipsNoiseBeforeTheMarker : Obligations.DecodeSkipsNoiseBeforeTheMarker := by
  intro s k hsize hk hmarker hfree
  have hskip := (Decides.noise k hsize hk hmarker hfree).decodeWindow_eq
  obtain ⟨-, hlt⟩ := skip_progress s.rx k hskip
  exact ⟨Nat.le_sub_one_of_lt hlt, (exec_opDecode_outcome_iff s _).mpr hskip⟩

/-- Settles O22: the condition of R94. -/
theorem decodeHeaderDigitFailure : Obligations.DecodeHeaderDigitFailure := by
  intro s p hsize hmarker h1 h4 hbefore hp
  rw [exec_opDecode_outcome_iff]
  exact (Decides.headerDigit p hsize hmarker h1 h4 hbefore hp).decodeWindow_eq

/-- Settles O23: the condition of R95; a decoded message's length has passed its test. -/
theorem decodeLengthAboveEight : Obligations.DecodeLengthAboveEight := by
  refine ⟨fun s hsize hmarker hdigits hlen => ?_, fun s t m c h ho => ?_⟩
  · rw [exec_opDecode_outcome_iff]
    exact (Decides.lengthDigit hsize hmarker hdigits hlen).decodeWindow_eq
  · have hframe := (exec_opDecode_outcome_iff s _).mp ⟨t, h, ho⟩
    exact (decodedFrom_of_decodeWindow hframe).legal

/-- Settles O24: the condition of R96, which names no data byte. -/
theorem decodeWaitsForTheDeclaredBytes : Obligations.DecodeWaitsForTheDeclaredBytes := by
  intro s len _ header hshort
  rw [exec_opDecode_outcome_iff]
  exact (Decides.fewBytes len header hshort).decodeWindow_eq

/-- Settles O25: the condition of R97, and the data bytes of a decoded message from their digits. -/
theorem decodeDataDigitFailure : Obligations.DecodeDataDigitFailure := by
  refine ⟨fun s len p header hsize h5 hlt hbefore hp => ?_, fun s t m c j h ho hj => ?_⟩
  · rw [exec_opDecode_outcome_iff]
    exact (Decides.dataDigit len p header hsize h5 (by omega) hbefore hp).decodeWindow_eq
  · have hm := decodedFrom_of_decodeWindow ((exec_opDecode_outcome_iff s _).mp ⟨t, h, ho⟩)
    obtain ⟨hhi, hlo⟩ := hm.digits j hj
    exact ⟨hhi, hlo, hm.dataEntry_toNat j hj⟩

/-- Settles O26: the three conditions of R98. -/
theorem decodeTerminatorPosition : Obligations.DecodeTerminatorPosition := by
  intro s len header hdata
  refine ⟨fun hsize => ?_, fun b hb hne => ?_, fun hend => ?_⟩
  · rw [exec_opDecode_outcome_iff]
    exact (Decides.unterminated len header hdata (by omega)).decodeWindow_eq
  · rw [exec_opDecode_outcome_iff]
    exact (Decides.otherByte len b header hdata hb hne).decodeWindow_eq
  · have hframe := (Decides.frame len header hdata hend).decodeWindow_eq
    obtain ⟨t, h, ho⟩ := (exec_opDecode_outcome_iff s _).mpr hframe
    exact ⟨t, _, h, ho⟩

/-- Settles O27: the fields of a decoded message. -/
theorem decodedMessageFields : Obligations.DecodedMessageFields := by
  intro s t m c h ho
  have hm := decodedFrom_of_decodeWindow ((exec_opDecode_outcome_iff s _).mp ⟨t, h, ho⟩)
  exact ⟨hm.identifier, hm.length, hm.dataEntry_toNat, hm.padding, hm.notRemote, hm.consumed⟩

/-- Settles O29: the condition of a skip or of a frame still holds when bytes arrive behind it. -/
theorem decisionsArePrefixStable : Obligations.DecisionsArePrefixStable := by
  intro w q h
  cases ho : decodeWindow w with
  | incomplete => exact absurd ho h
  | skipPrefix n => exact (((decides_iff w _).mpr ho).skip_append q).decodeWindow_eq
  | frame m c => exact decodeWindow_append_of_frame ho q

/-- Settles O40: FEED and a wire row deliver what the loop decoded. -/
theorem deliveredMessagesAreDataMessages : Obligations.DeliveredMessagesAreDataMessages := by
  intro i s t out hi h hout m hm
  rcases exec_next_cases i s t h with ⟨rfl, -⟩ | ⟨rfl, -⟩ | ⟨chunk, -, -, rfl⟩ | ⟨rfl, -, -⟩ | ⟨rfl, -⟩
  case inr.inr.inl =>
    obtain rfl : (drain (s.residual.append chunk)).messages = out := by simpa [reassemble] using hout
    obtain ⟨w, c, hmessage⟩ := exists_decodedFrom_of_mem_drain _ m hm
    exact ⟨hmessage.legal, hmessage.notRemote, hmessage.padding⟩
  all_goals simp [Instr.frame?] at hi

end Sys2Proof.Proofs
end

section
/-! SUPPORT. The reassembler's loop as a relation and as a function (42_reassembler.md R110): every run of the loop is
the one `drain` makes, with the bounds of R115. Then what a FEED answers: its refusals (R118), and the next state of an
accepted chunk. -/

namespace Sys2Proof.Machine

/-! ### The runs of the loop -/

theorem skipCondition_of_marker (r : Memory) (k : Nat) (h : r[0]? = some dataMarker) :
    skipCondition r k = .malformedFrame k :=
  if_pos h

theorem skipCondition_of_no_marker (r : Memory) (k : Nat) (h : r[0]? ≠ some dataMarker) :
    skipCondition r k = .desynchronized k :=
  if_neg h

/-- The two arms of a skip as one, with the condition R151 gives it. -/
theorem LoopRun.skip {r r' : List Byte} {out : List CanMessage} {evs : List Condition} {k : Nat}
    (h : decodeWindow r = .skipPrefix k) (hrest : LoopRun (r.drop k) out evs r') :
    LoopRun r out (skipCondition r k :: evs) r' := by
  by_cases hmarker : r[0]? = some dataMarker
  · rw [skipCondition_of_marker r k hmarker]
    exact .malformed r r' out evs k h hmarker hrest
  · rw [skipCondition_of_no_marker r k hmarker]
    exact .noise r r' out evs k h hmarker hrest

/-- From every buffer the loop has a run (R115): the one `drain` makes. -/
theorem loopRun_drain (r : Memory) : LoopRun r (drain r).messages (drain r).events (drain r).residual :=
  drain_induction (fun r d => LoopRun r d.messages d.events d.residual)
    (fun r hstop => .stop r hstop) (fun _ _ hskip ih => .skip hskip ih)
    (fun r m c hframe ih => .frame r _ _ _ m c hframe ih) r

/-- The loop has no other run. -/
theorem LoopRun.drain_eq {r r' : List Byte} {out : List CanMessage} {evs : List Condition}
    (h : LoopRun r out evs r') : drain r = { residual := r', messages := out, events := evs } := by
  induction h with
  | stop r hstop => exact drain_of_incomplete r hstop
  | noise r r' out evs k hskip hmarker _ ih =>
    rw [drain_of_skip r k hskip, Memory.trim, ih, skipCondition_of_no_marker r k hmarker, Drained.raise]
  | malformed r r' out evs p hskip hmarker _ ih =>
    rw [drain_of_skip r p hskip, Memory.trim, ih, skipCondition_of_marker r p hmarker, Drained.raise]
  | frame r r' out evs m c hframe _ ih =>
    rw [drain_of_frame r m c hframe, Memory.trim, ih, Drained.emit]

/-! ### Its bounds -/

/-- Only a window of at least 5 bytes gives a skip or a frame (41_decoder.md R91). -/
theorem five_le_length_of_decided {w : Memory} (h : decodeWindow w ≠ .incomplete) : 5 ≤ w.length :=
  Nat.le_of_not_lt fun hshort => h (Decides.short hshort).decodeWindow_eq

/-- The attempts of a run, counted by what they give: one, and at most one more for each byte past the fourth. An
attempt that goes on removes a byte and needs 5 (R115). -/
theorem drain_attempts_le (r : Memory) :
    1 ≤ (drain r).messages.length + (drain r).events.length ∧
    (drain r).messages.length + (drain r).events.length ≤ r.length - 4 + 1 := by
  refine drain_induction (fun r d => 1 ≤ d.messages.length + d.events.length ∧
    d.messages.length + d.events.length ≤ r.length - 4 + 1) ?stop ?skip ?frame r
  case stop => simp
  case skip =>
    intro r k hskip ih
    obtain ⟨hk, -⟩ := skip_progress r k hskip
    have hsize := five_le_length_of_decided (w := r) (by simp [hskip])
    rw [Memory.length_trim] at ih
    rw [Drained.raise_messages, Drained.raise_events, List.length_cons]
    omega
  case frame =>
    intro r m c hframe ih
    obtain ⟨hc, -, hsize⟩ := frame_progress r m c hframe
    rw [Memory.length_trim] at ih
    rw [Drained.emit_messages, Drained.emit_events, List.length_cons]
    omega

/-- Each message takes at least 6 bytes of the buffer (R115). -/
theorem six_mul_drain_messages_le (r : Memory) : 6 * (drain r).messages.length ≤ r.length := by
  refine drain_induction (fun r d => 6 * d.messages.length ≤ r.length) ?stop ?skip ?frame r
  case stop => simp
  case skip =>
    intro r k _ ih
    rw [Memory.length_trim] at ih
    rw [Drained.raise_messages]
    omega
  case frame =>
    intro r m c hframe ih
    obtain ⟨hc, -, hsize⟩ := frame_progress r m c hframe
    rw [Memory.length_trim] at ih
    rw [Drained.emit_messages, List.length_cons]
    omega

/-- A stalled window longer than 21 bytes, the longest frame in progress, is noise (R125). -/
theorem markerFree_of_stalled (w : Memory) (hstalled : decodeWindow w = .incomplete) (hsize : 21 < w.length) :
    markerFree w := by
  rcases incomplete_shapes w hstalled with hshort | hfree | ⟨len, header, hframe⟩
  · omega
  · exact hfree
  · have hlen := header.inRange
    omega

/-! ### What a FEED answers -/

theorem feedChunk_of_closed (chunk : List Byte) (s : State) (h : s.isOpen = false) :
    s.feedChunk chunk = .refused .feedWhileClosed :=
  if_pos h

theorem feedChunk_of_too_long (chunk : List Byte) (s : State) (n : Nat) (hopen : s.isOpen = true)
    (hmax : s.config.maxChunk = some n) (hlong : n < chunk.length) :
    s.feedChunk chunk = .refused .chunkTooLong := by
  simp [State.feedChunk, hopen, chunkTooLong, hmax, hlong]

theorem feedChunk_of_accepts (chunk : List Byte) (s : State) (h : s.accepts chunk) :
    s.feedChunk chunk = .next (s.deliver (reassemble s.config.ceiling s.residual chunk)) :=
  feedChunk_of_accepted chunk s h.1 h.2

/-- FEED of port RX and the arrival of a wire frame deliver what the loop and the bound give of an accepted chunk. -/
theorem exec_receive_next (i : Instr) (s t : State) (hi : i = .opFeed ∨ i.frame?.isSome = true)
    (h : exec i s = .next t) :
    ∃ chunk, s.accepts chunk ∧ t = s.deliver (reassemble s.config.ceiling s.residual chunk) := by
  rcases hi with rfl | hrow
  · exact ⟨s.rx, feedChunk_next s.rx s t h⟩
  · obtain ⟨f, hf⟩ := Option.isSome_iff_exists.mp hrow
    rw [exec_wire_row i f s hf] at h
    exact ⟨frameBytes f, feedChunk_next (frameBytes f) s t h⟩

/-- Under the invariant an empty chunk meets a stalled buffer within the ceiling: one attempt, and every byte kept
(R120). -/
theorem State.Inv.reassemble_nil {s : State} (hs : s.Inv) :
    reassemble s.config.ceiling s.residual [] =
      { residual := s.residual, messages := [], events := [.incompleteInput] } := by
  rw [reassemble, Memory.append, List.append_nil, drain_of_incomplete _ hs.stalled]
  exact if_neg (Nat.not_lt.mpr hs.bounded)

end Sys2Proof.Machine
end

section
/-! SUPPORT. The statements of 42_reassembler.md, settled. -/

namespace Sys2Proof.Proofs

open Sys2Proof.Machine

/-- Settles O31: the run is the one `drain` makes on the joined buffer, and the bound keeps its messages. -/
theorem feedRunsTheLoopAndTheBound : Obligations.FeedRunsTheLoopAndTheBound := by
  intro s hs
  exact ⟨_, _, _, _, loopRun_drain (s.residual ++ s.rx), feedChunk_of_accepts s.rx s hs, hs.1,
    congrArg some (safetyBound_messages _ _), safetyBound_residual _ _⟩

/-- Settles O33: an accepted FEED makes a run, and every run is `drain`'s, whose attempts and messages are bounded. -/
theorem loopEndsWithinItsBound : Obligations.LoopEndsWithinItsBound := by
  refine ⟨fun s hs => ?_, fun r r' out evs hrun => ?_⟩
  · obtain ⟨t, out, evs, r, hrun, hnext, -, hout, -⟩ := feedRunsTheLoopAndTheBound s hs
    exact ⟨t, out, evs, r, hnext, hout, hrun⟩
  · have hattempts := drain_attempts_le r
    have hmessages := six_mul_drain_messages_le r
    simp only [hrun.drain_eq] at hattempts hmessages
    exact ⟨by omega, by omega, by omega⟩

/-- Settles O34: no MAX_CHUNK refuses an empty chunk, and reassembling it keeps the buffer. -/
theorem emptyChunkChangesNothing : Obligations.EmptyChunkChangesNothing := by
  intro s hs hopen hrx
  have hnext := feedChunk_of_accepts s.rx s ⟨hopen, by simp [hrx]⟩
  rw [hrx, hs.reassemble_nil, ← hrx, ← exec_opFeed] at hnext
  exact ⟨_, hnext, rfl, rfl, hopen⟩

/-- Settles O37: the loop leaves a stalled buffer, and a stalled buffer longer than 21 bytes is noise. -/
theorem boundClearsNoiseOnly : Obligations.BoundClearsNoiseOnly := by
  intro s out evs r hlegal hrun hlong
  have hstalled := drain_stalled (s.residual ++ s.rx)
  rw [hrun.drain_eq] at hstalled
  exact markerFree_of_stalled r hstalled (hlegal.trans_lt hlong)

/-- Settles O12: the next states of OPEN and of CLOSE; a closed block with the invariant is what CLOSE makes of it. -/
theorem openAndCloseTransitions : Obligations.OpenAndCloseTransitions := by
  refine ⟨fun s => ⟨_, exec_opOpen s, rfl, rfl, rfl, rfl, rfl, rfl⟩,
    fun s => ⟨_, exec_opClose s, rfl, rfl, rfl, rfl, rfl, rfl⟩, fun s hs hclosed => ?_⟩
  rw [exec_opClose, ← hclosed, ← hs.closedEmpty hclosed]

/-- Settles O32: the two refusals of R118. -/
theorem feedRefusals : Obligations.FeedRefusals :=
  fun s => ⟨feedChunk_of_closed s.rx s, feedChunk_of_too_long s.rx s⟩

/-- Settles O35: the next state is what `deliver` makes of the block, which writes three fields and appends to the
ghost list. -/
theorem feedAndWireRowFrame : Obligations.FeedAndWireRowFrame := by
  intro i s t hi h
  obtain ⟨chunk, -, rfl⟩ := exec_receive_next i s t hi h
  exact ⟨rfl, List.prefix_append _ _⟩

end Sys2Proof.Proofs
end

section
/-! SUPPORT. The loop on a stream in pieces (42_reassembler.md R110, 43_properties.md R133): draining more bytes goes on
where draining the first ones stopped, and marker-free bytes before a window change nothing but how much noise is
held back. -/

namespace Sys2Proof.Machine

/-! ### The loop on more bytes -/

/-- A decision holds on every longer window (41_decoder.md R102). -/
theorem decodeWindow_append {w : Memory} {o : DecodeOutcome} (q : List Byte) (ho : o ≠ .incomplete)
    (h : decodeWindow w = o) : decodeWindow (w ++ q) = o := by
  subst h
  exact Proofs.decisionsArePrefixStable w q ho

/-- The loop on a longer buffer delivers what it delivers on the first part, and goes on with what that leaves. -/
theorem drain_append (r q : Memory) :
    (drain (r ++ q)).messages = (drain r).messages ++ (drain ((drain r).residual ++ q)).messages ∧
    (drain (r ++ q)).residual = (drain ((drain r).residual ++ q)).residual := by
  refine drain_induction (fun r d => (drain (r ++ q)).messages = d.messages ++ (drain (d.residual ++ q)).messages ∧
    (drain (r ++ q)).residual = (drain (d.residual ++ q)).residual) ?stop ?skip ?frame r
  case stop => exact fun r _ => ⟨rfl, rfl⟩
  case skip =>
    intro r k hskip ih
    obtain ⟨-, hk⟩ := skip_progress r k hskip
    have htrim : Memory.trim (r ++ q) k = r.trim k ++ q := List.drop_append_of_le_length hk.le
    rwa [drain_of_skip _ k (decodeWindow_append q nofun hskip), htrim]
  case frame =>
    intro r m c hframe ih
    obtain ⟨-, -, hc⟩ := frame_progress r m c hframe
    have htrim : Memory.trim (r ++ q) c = r.trim c ++ q := List.drop_append_of_le_length hc
    rw [drain_of_frame _ m c (decodeWindow_append q nofun hframe), htrim]
    exact ⟨congrArg (m :: ·) ih.1, ih.2⟩

/-- The loop only drops bytes at the front (R110). -/
theorem drain_residual_suffix (r : Memory) : (drain r).residual <:+ r :=
  drain_induction (fun r d => d.residual <:+ r) (fun r _ => List.suffix_refl r)
    (fun r k _ ih => ih.trans (List.drop_suffix k r)) (fun r _ c _ ih => ih.trans (List.drop_suffix c r)) r

theorem reassemble_residual_suffix (ceiling : Nat) (r chunk : Memory) :
    (reassemble ceiling r chunk).residual <:+ r ++ chunk := by
  rw [reassemble, safetyBound_residual]
  split
  · exact List.nil_suffix
  · exact drain_residual_suffix _

theorem drain_of_markerFree (w : Memory) (h : markerFree w) :
    drain w = { residual := w, messages := [], events := [.incompleteInput] } :=
  drain_of_incomplete w (decodeWindow_of_markerFree w h)

theorem markerFree_append (x y : Memory) : markerFree (x ++ y) ↔ markerFree x ∧ markerFree y := by
  simp [markerFree, not_or]

/-! ### From the first marker on -/

/-- A window from its first marker on. -/
def fromMarker (w : Memory) : Memory := w.dropWhile (fun b => b != dataMarker)

@[simp] theorem fromMarker_cons_marker (w : Memory) : fromMarker (dataMarker :: w) = dataMarker :: w := rfl

/-- Noise at the front does not count. -/
theorem fromMarker_append (x w : Memory) (h : markerFree x) : fromMarker (x ++ w) = fromMarker w :=
  List.dropWhile_append_of_pos fun b hb => by
    rw [bne_iff_ne]
    rintro rfl
    exact h hb

/-- A window is noise, or noise before a marker. -/
theorem markerFree_or_noise_before_marker (w : Memory) :
    markerFree w ∨ ∃ x v, markerFree x ∧ w = x ++ dataMarker :: v := by
  by_cases h : dataMarker ∈ w
  · obtain ⟨x, v, rfl, hx⟩ := List.eq_append_cons_of_mem h
    exact .inr ⟨x, v, hx, rfl⟩
  · exact .inl h

/-- What stands before a window without changing it from its first marker on is noise. -/
theorem markerFree_of_fromMarker_append (x w : Memory) (h : fromMarker (x ++ w) = fromMarker w) : markerFree x := by
  rcases markerFree_or_noise_before_marker x with hx | ⟨y, v, hy, rfl⟩
  · exact hx
  · rw [List.append_assoc, fromMarker_append y _ hy, List.cons_append, fromMarker_cons_marker] at h
    have hle := (List.dropWhile_suffix (l := w) (fun b => b != dataMarker)).length_le
    have hsize := congrArg List.length h
    simp only [fromMarker, List.length_cons, List.length_append] at hsize hle
    omega

/-- Two ends of one stream that agree from their first marker on differ by noise at the front. -/
theorem noise_between_suffixes (a b stream : Memory) (ha : a <:+ stream) (hb : b <:+ stream)
    (h : fromMarker a = fromMarker b) : ∃ x, markerFree x ∧ (a = x ++ b ∨ b = x ++ a) := by
  rcases List.suffix_or_suffix_of_suffix ha hb with ⟨x, rfl⟩ | ⟨x, rfl⟩
  · exact ⟨x, markerFree_of_fromMarker_append x a h.symm, .inr rfl⟩
  · exact ⟨x, markerFree_of_fromMarker_append x b h, .inl rfl⟩

/-! ### Agreement up to noise -/

/-- Messages `out` and a buffer `r` agree with what a run of the loop gives: the messages are the same, the buffers the
same from their first marker on, and `r` holds no noise where the run leaves nothing. -/
structure AgreesUpToNoise (out : List CanMessage) (r : Memory) (d : Drained) : Prop where
  messages : out = d.messages
  inProgress : fromMarker r = fromMarker d.residual
  empty : d.residual = [] → r = []

/-- Noise before a marker is held back with it while the window is short, and skipped after that (R91, R92). -/
theorem drain_noise_before_marker (x v : Memory) (hx : markerFree x) :
    (drain (x ++ dataMarker :: v)).messages = (drain (dataMarker :: v)).messages ∧
    fromMarker (drain (x ++ dataMarker :: v)).residual = fromMarker (drain (dataMarker :: v)).residual ∧
    ((drain (x ++ dataMarker :: v)).residual = [] ↔ (drain (dataMarker :: v)).residual = []) := by
  rcases Nat.lt_or_ge (x ++ dataMarker :: v).length 5 with hshort | hsize
  · have hshort' : (dataMarker :: v).length < 5 := by rw [List.length_append] at hshort; omega
    rw [drain_of_incomplete _ (Decides.short hshort).decodeWindow_eq,
      drain_of_incomplete _ (Decides.short hshort').decodeWindow_eq]
    simp [fromMarker_append x _ hx]
  rcases Nat.eq_zero_or_pos x.length with hzero | hpos
  · obtain rfl := List.length_eq_zero_iff.mp hzero
    simp
  · have hskip := (Decides.noise x.length hsize hpos (by simp) (by simpa using hx)).decodeWindow_eq
    rw [drain_of_skip _ _ hskip, Memory.trim, List.drop_left]
    simp

/-- What the loop gives with noise before the window, it gives without. -/
theorem drain_agrees_behind_noise (x w : Memory) (hx : markerFree x) :
    AgreesUpToNoise (drain w).messages (drain w).residual (drain (x ++ w)) := by
  rcases markerFree_or_noise_before_marker w with hw | ⟨y, v, hy, rfl⟩
  · have hxw := (markerFree_append x w).mpr ⟨hx, hw⟩
    rw [drain_of_markerFree w hw, drain_of_markerFree _ hxw]
    exact ⟨rfl, (fromMarker_append x w hx).symm, fun h => (List.append_eq_nil_iff.mp h).2⟩
  · obtain ⟨hm1, hp1, he1⟩ := drain_noise_before_marker y v hy
    obtain ⟨hm2, hp2, he2⟩ := drain_noise_before_marker (x ++ y) v ((markerFree_append x y).mpr ⟨hx, hy⟩)
    rw [← List.append_assoc]
    exact ⟨hm1.trans hm2.symm, hp1.trans hp2.symm, fun h => he1.mpr (he2.mp h)⟩

/-- What agrees with a window agrees with the window behind noise. -/
theorem AgreesUpToNoise.behind_noise {out : List CanMessage} {r w : Memory} (h : AgreesUpToNoise out r (drain w))
    (x : Memory) (hx : markerFree x) : AgreesUpToNoise out r (drain (x ++ w)) := by
  have hnoise := drain_agrees_behind_noise x w hx
  exact ⟨h.messages.trans hnoise.messages, h.inProgress.trans hnoise.inProgress, fun he => h.empty (hnoise.empty he)⟩

/-- One FEED at a legal ceiling and what follows it, against the joined bytes. The bound, where it clears, clears noise
(R125). -/
theorem AgreesUpToNoise.of_reassemble {ceiling : Nat} {a chunk rest r : Memory} {out : List CanMessage}
    (hlegal : 21 ≤ ceiling) (h : AgreesUpToNoise out r (drain ((reassemble ceiling a chunk).residual ++ rest))) :
    AgreesUpToNoise ((drain (a ++ chunk)).messages ++ out) r (drain (a ++ (chunk ++ rest))) := by
  have hunbounded : AgreesUpToNoise out r (drain ((drain (a ++ chunk)).residual ++ rest)) := by
    rw [reassemble, safetyBound_residual, Memory.append] at h
    split at h
    · next hover =>
      have hfree := markerFree_of_stalled _ (drain_stalled (a ++ chunk)) (hlegal.trans_lt hover)
      exact h.behind_noise _ hfree
    · exact h
  obtain ⟨hmessages, hresidual⟩ := drain_append (a ++ chunk) rest
  rw [← List.append_assoc]
  refine ⟨?_, hresidual ▸ hunbounded.inProgress, hresidual ▸ hunbounded.empty⟩
  rw [hmessages, hunbounded.messages]

end Sys2Proof.Machine
end

section
/-! SUPPORT. The host feeding a stream chunk by chunk (`feed*` of 43_properties.md): what it delivers and what it leaves
agree up to noise with the loop run on the whole stream. -/

namespace Sys2Proof.Machine

/-! ### One FEED -/

/-- The bound keeps the loop's messages (R114). -/
@[simp] theorem reassemble_messages (ceiling : Nat) (r chunk : Memory) :
    (reassemble ceiling r chunk).messages = (drain (r ++ chunk)).messages :=
  safetyBound_messages _ _

/-- The state an accepted FEED answers: RX as the host drives it, and what the loop and the bound give delivered. -/
def State.afterFeed (s : State) (chunk : List Byte) : State :=
  { s with rx := chunk }.deliver (reassemble s.config.ceiling s.residual chunk)

@[simp] theorem State.afterFeed_config (s : State) (chunk : List Byte) : (s.afterFeed chunk).config = s.config := rfl
@[simp] theorem State.afterFeed_isOpen (s : State) (chunk : List Byte) : (s.afterFeed chunk).isOpen = s.isOpen := rfl
@[simp] theorem State.afterFeed_residual (s : State) (chunk : List Byte) :
    (s.afterFeed chunk).residual = (reassemble s.config.ceiling s.residual chunk).residual := rfl
@[simp] theorem State.afterFeed_msgOut (s : State) (chunk : List Byte) :
    (s.afterFeed chunk).msgOut = some (drain (s.residual ++ chunk)).messages :=
  congrArg some (reassemble_messages _ _ _)
@[simp] theorem State.afterFeed_events (s : State) (chunk : List Byte) :
    (s.afterFeed chunk).events = s.events ++ (reassemble s.config.ceiling s.residual chunk).events := rfl

theorem feed_of_accepts (s : State) (chunk : List Byte) (h : s.accepts chunk) :
    s.feed chunk = .next (s.afterFeed chunk) :=
  feedChunk_of_accepts chunk { s with rx := chunk } h

/-- `feed*` one chunk at a time. -/
theorem feedAll_cons (s : State) (c : List Byte) (cs : List (List Byte)) (h : s.accepts c) :
    feedAll (c :: cs) s =
      (feedAll cs (s.afterFeed c)).map fun p => ((drain (s.residual ++ c)).messages ++ p.1, p.2) := by
  simp [feedAll, feed_of_accepts s c h]

theorem feedAll_singleton (s : State) (chunk : List Byte) (h : s.accepts chunk) :
    feedAll [chunk] s = some ((drain (s.residual ++ chunk)).messages, s.afterFeed chunk) := by
  rw [feedAll_cons s chunk [] h]
  simp [feedAll]

/-! ### A stream -/

/-- A block that is open with an empty buffer has the invariant. -/
theorem State.fresh.inv {s : State} (h : s.fresh) : s.Inv := .of_empty h.2

/-- The pieces of an accepted chunk are accepted (R118). -/
theorem accepts_of_mem (s : State) (cs : List (List Byte)) (h : s.accepts cs.flatten) : ∀ c ∈ cs, s.accepts c :=
  fun _ hc => ⟨h.1, fun n hn => (List.sublist_flatten_of_mem hc).length_le.trans (h.2 n hn)⟩

/-- What feeding a stream in chunks comes to: configuration and `open` as before, the invariant, the buffer an end of
the joined bytes, and messages and buffer those of the loop run on them whole, up to noise. -/
structure Fed (s : State) (stream : Memory) (out : List CanMessage) (t : State) : Prop where
  config : t.config = s.config
  isOpen : t.isOpen = s.isOpen
  inv : t.Inv
  suffix : t.residual <:+ s.residual ++ stream
  agrees : AgreesUpToNoise out t.residual (drain (s.residual ++ stream))

/-- With a legal ceiling, a stream fed in accepted chunks is delivered in full. -/
theorem exists_fed (cs : List (List Byte)) (s : State) (hs : s.Inv) (hlegal : s.config.legal)
    (hcs : ∀ c ∈ cs, s.accepts c) : ∃ out t, feedAll cs s = some (out, t) ∧ Fed s cs.flatten out t := by
  induction cs generalizing s with
  | nil =>
    have hstall := drain_of_incomplete _ hs.stalled
    refine ⟨[], s, rfl, rfl, rfl, hs, by simp, ?_⟩
    rw [List.flatten_nil, List.append_nil, hstall]
    exact ⟨rfl, rfl, id⟩
  | cons c cs ih =>
    have hc := hcs c (by simp)
    have hinv' : (s.afterFeed c).Inv := deliver_inv { s with rx := c } s.residual c hc.1
    obtain ⟨out, t, hall, hconfig, hopen, hinv, hsuffix, hagrees⟩ :=
      ih (s.afterFeed c) hinv' hlegal fun d hd => hcs d (by simp [hd])
    rw [State.afterFeed_residual] at hsuffix hagrees
    refine ⟨_, t, by rw [feedAll_cons s c cs hc, hall]; rfl, hconfig, hopen, hinv, ?_, hagrees.of_reassemble hlegal⟩
    rw [List.flatten_cons, ← List.append_assoc]
    exact hsuffix.trans (List.suffix_append_self_iff.mpr (reassemble_residual_suffix _ _ _))

end Sys2Proof.Machine
end

section
/-! SUPPORT. Frames in a stream: what ENCODE emits is decoded back whatever follows it (43_properties.md R130, R140), is
`Incomplete` while cut short (R142), and is delivered behind noise (R134) and behind a frame cut short (R135). -/

namespace Sys2Proof.Machine

/-! ### What ENCODE emits, decoded -/

/-- The message DECODE gives back for what ENCODE emits: the same one, 0x00 past its length (R99). -/
def receivedMessage (m : CanMessage) : CanMessage := frameMessage (messageFrame m)

theorem receivedMessage_same (m : CanMessage) (h : m.legal) : (receivedMessage m).same m :=
  frameMessage_messageFrame m h

/-- ENCODE of a data message has the layout of R51. -/
theorem encodeMessage_layout (m : CanMessage) (h : m.legal) (hdata : m.isRemoteRequest = false) :
    DataFrameLayout (encodeMessage m) m.length.toNat := by
  have hlength := messageFrame_data_length m h
  have h8 : (messageFrame m).data.length ≤ 8 := hlength.trans_le h
  rw [encodeMessage_eq_frameBytes m h, ← hlength]
  exact frameBytes_layout _ hdata (messageFrame_wf m) h8

/-- DECODE gives back a data message, whatever follows its frame (R130, R140). -/
theorem decodeWindow_encodeMessage (m : CanMessage) (q : List Byte) (h : m.legal) (hdata : m.isRemoteRequest = false) :
    decodeWindow (encodeMessage m ++ q) = .frame (receivedMessage m) (encodeMessage m).length := by
  have h8 : (messageFrame m).data.length ≤ 8 := (messageFrame_data_length m h).trans_le h
  rw [encodeMessage_eq_frameBytes m h]
  exact decodeWindow_frameBytes _ q hdata (messageFrame_wf m) h8

/-- ENCODE of a remote message holds no marker (R131). -/
theorem encodeMessage_markerFree (m : CanMessage) (hremote : m.isRemoteRequest = true) :
    markerFree (encodeMessage m) := by
  intro hmem
  rw [encodeMessage_eq, hremote, if_pos rfl] at hmem
  simp only [List.mem_cons, List.mem_append, List.not_mem_nil, or_false] at hmem
  rcases hmem with hfirst | hdigit | hlast
  · exact absurd hfirst (by decide)
  · obtain ⟨v, hv, heq⟩ := exists_hexChar_of_mem_encodedDigits m _ hdigit
    exact (hexChar_plain v (by omega)).2.1 heq.symm
  · exact absurd hlast (by decide)

/-! ### A frame cut short -/

theorem hexAt_take (w : Memory) (n p : Nat) (h : p < n) : hexAt (w.take n) p = hexAt w p := by
  simp [hexAt, Memory.read, List.getElem?_take_of_lt h]

/-- The header of a data frame announces its data bytes. -/
theorem DataFrameLayout.headerAt {w : Memory} {len : Nat} (h : DataFrameLayout w len) : HeaderAt w len where
  marker := h.marker
  digits := fun p h1 h4 => h.hexAt_inside p h1 (by omega)
  length := h.lengthAt_eq
  inRange := h.inRange

/-- Five bytes of a window hold its header. -/
theorem HeaderAt.take {w : Memory} {len n : Nat} (h : HeaderAt w len) (hn : 5 ≤ n) : HeaderAt (w.take n) len where
  marker := (List.getElem?_take_of_lt (by omega)).trans h.marker
  digits := fun p h1 h4 => (hexAt_take w n p (by omega)).trans (h.digits p h1 h4)
  length := by
    rw [← h.length]
    simp [lengthAt, hexValAt, Memory.read, List.getElem?_take_of_lt (show 4 < n by omega)]
  inRange := h.inRange

/-- A data frame of which a byte is missing is `Incomplete` (R142): too short to be examined, short of declared bytes,
or short of the terminator. -/
theorem DataFrameLayout.decodeWindow_take {w : Memory} {len n : Nat} (h : DataFrameLayout w len) (hn : n < w.length) :
    decodeWindow (w.take n) = .incomplete := by
  have hsize : (w.take n).length = n := List.length_take_of_le hn.le
  have hlen := h.size
  rcases Nat.lt_or_ge n 5 with hshort | h5
  · exact (Decides.short (by omega)).decodeWindow_eq
  have header := h.headerAt.take h5
  rcases Nat.lt_or_ge n (2 * len + 5) with hfew | hfull
  · exact (Decides.fewBytes len header (by omega)).decodeWindow_eq
  · refine (Decides.unterminated len header (fun q hq5 hq => ?_) (by omega)).decodeWindow_eq
    rw [hexAt_take w n q (by omega)]
    exact h.hexAt_inside q (by omega) hq

/-- A data frame cut short before another marker is skipped to that marker, once its declared bytes are there if the
cut is behind the header (R135). -/
theorem DataFrameLayout.decodeWindow_restart {w : Memory} {len n : Nat} (h : DataFrameLayout w len) (rest : Memory)
    (h1 : 1 ≤ n) (hn : n < w.length) (hsize : 5 ≤ n + (dataMarker :: rest).length)
    (hbytes : n ≤ 4 ∨ 2 * len + 5 ≤ n + (dataMarker :: rest).length) :
    decodeWindow (w.take n ++ dataMarker :: rest) = .skipPrefix n := by
  have htake : (w.take n).length = n := List.length_take_of_le hn.le
  have hlen := h.size
  have hinside : ∀ q, 1 ≤ q → q < n → hexAt (w.take n ++ dataMarker :: rest) q = true := fun q hq hqn => by
    rw [hexAt_append _ _ q (by omega), hexAt_take w n q hqn]
    exact h.hexAt_inside q hq (by omega)
  have hcut : (w.take n ++ dataMarker :: rest)[n]? = some dataMarker := by
    rw [List.getElem?_append_right htake.le, htake, Nat.sub_self]
    rfl
  have hnot : hexAt (w.take n ++ dataMarker :: rest) n = false := by
    rw [hexAt, Memory.read, hcut]
    rfl
  have hall : (w.take n ++ dataMarker :: rest).length = n + (dataMarker :: rest).length := by
    rw [List.length_append, htake]
  rcases Nat.lt_or_ge n 5 with h4 | h5
  · have hmarker := getElem?_append_of_eq_some (dataMarker :: rest)
      ((List.getElem?_take_of_lt (by omega)).trans h.marker : (w.take n)[0]? = some dataMarker)
    exact (Decides.headerDigit n (by omega) hmarker h1 (by omega) hinside hnot).decodeWindow_eq
  have header := (h.headerAt.take h5).append (dataMarker :: rest)
  rcases Nat.lt_or_ge n (5 + 2 * len) with hdata | hend
  · exact (Decides.dataDigit len n header (by omega) h5 hdata (fun q hq => hinside q (by omega)) hnot).decodeWindow_eq
  · obtain rfl : n = 5 + 2 * len := by omega
    exact (Decides.otherByte len dataMarker header (fun q hq => hinside q (by omega)) hcut (by decide)).decodeWindow_eq

/-! ### A frame delivered -/

/-- What the loop gives of noise and a frame behind it (R134): the frame's message, nothing left, and the noise
reported. -/
def noiseThenMessage (g : Memory) (m : CanMessage) : Drained where
  residual := []
  messages := [m]
  events := (if g = [] then [] else [.desynchronized g.length]) ++ [.incompleteInput]

/-- A frame that is all of the buffer is delivered and leaves nothing. -/
theorem drain_frame (w : Memory) (m : CanMessage) (h : decodeWindow w = .frame m w.length) :
    drain w = noiseThenMessage [] m := by
  rw [drain_of_frame w m _ h, Memory.trim, List.drop_length]
  rfl

theorem drain_noise_frame (g w : Memory) (m : CanMessage) (hg : markerFree g)
    (h : decodeWindow w = .frame m w.length) : drain (g ++ w) = noiseThenMessage g m := by
  rcases Nat.eq_zero_or_pos g.length with hzero | hpos
  · obtain rfl := List.length_eq_zero_iff.mp hzero
    exact drain_frame w m h
  have hmarker := (frame_inv w m _ h).1
  obtain ⟨hsize, -, -⟩ := frame_progress w m _ h
  have hread : (g ++ w)[g.length]? = some dataMarker := by
    rwa [List.getElem?_append_right le_rfl, Nat.sub_self]
  have hskip := (Decides.noise g.length (w := g ++ w) (by simp; omega) hpos hread (by simpa using hg)).decodeWindow_eq
  have hnoise : skipCondition (g ++ w) g.length = .desynchronized g.length := by
    refine skipCondition_of_no_marker _ _ fun hfirst => ?_
    rw [List.getElem?_append_left hpos] at hfirst
    exact hg (List.mem_of_getElem? hfirst)
  rw [drain_of_skip _ _ hskip, Memory.trim, List.drop_left, drain_frame w m h, hnoise]
  simp [noiseThenMessage, Drained.raise, List.length_pos_iff.mp hpos]

theorem drain_noise_encodeMessage (g : Memory) (m : CanMessage) (hg : markerFree g) (h : m.legal)
    (hdata : m.isRemoteRequest = false) : drain (g ++ encodeMessage m) = noiseThenMessage g (receivedMessage m) := by
  have hframe := decodeWindow_encodeMessage m [] h hdata
  rw [List.append_nil] at hframe
  exact drain_noise_frame g _ _ hg hframe

/-- A frame cut short and a data frame behind it: the first attempt skips to the second frame, and the loop goes on with
it alone (R135). A remote frame cut short is noise. -/
theorem decodeWindow_cut_then_encodeMessage (m1 m2 : CanMessage) (n : Nat) (hlegal1 : m1.legal) (hlegal2 : m2.legal)
    (hdata : m2.isRemoteRequest = false) (h1 : 1 ≤ n) (hn : n < (encodeMessage m1).length)
    (hbytes : n ≤ 4 ∨ 2 * m1.length.toNat + 5 ≤ n + (encodeMessage m2).length) :
    decodeWindow ((encodeMessage m1).take n ++ encodeMessage m2) = .skipPrefix n := by
  have hsize := encodeMessage_length m2 hlegal2
  have htake : ((encodeMessage m1).take n).length = n := List.length_take_of_le hn.le
  obtain ⟨rest, hrest⟩ : ∃ rest, encodeMessage m2 = dataMarker :: rest := ⟨_, by rw [encodeMessage_eq, hdata]; rfl⟩
  rw [hrest] at hsize hbytes ⊢
  cases hremote : m1.isRemoteRequest with
  | false => exact (encodeMessage_layout m1 hlegal1 hremote).decodeWindow_restart rest h1 hn (by omega) hbytes
  | true =>
    have hfree : markerFree ((encodeMessage m1).take n) := fun hmem =>
      encodeMessage_markerFree m1 hremote (List.mem_of_mem_take hmem)
    refine (Decides.noise n (by rw [List.length_append]; omega) h1 ?_ ?_).decodeWindow_eq
    · simp [htake]
    · simpa [htake] using hfree

theorem drain_cut_then_encodeMessage (m1 m2 : CanMessage) (n : Nat) (hlegal1 : m1.legal) (hlegal2 : m2.legal)
    (hdata : m2.isRemoteRequest = false) (h1 : 1 ≤ n) (hn : n < (encodeMessage m1).length)
    (hbytes : n ≤ 4 ∨ 2 * m1.length.toNat + 5 ≤ n + (encodeMessage m2).length) :
    drain ((encodeMessage m1).take n ++ encodeMessage m2) =
      (noiseThenMessage [] (receivedMessage m2)).raise
        (skipCondition ((encodeMessage m1).take n ++ encodeMessage m2) n) := by
  have htrim : Memory.trim ((encodeMessage m1).take n ++ encodeMessage m2) n = [] ++ encodeMessage m2 :=
    List.drop_left' (List.length_take_of_le hn.le)
  rw [drain_of_skip _ n (decodeWindow_cut_then_encodeMessage m1 m2 n hlegal1 hlegal2 hdata h1 hn hbytes), htrim,
    drain_noise_encodeMessage [] m2 nofun hlegal2 hdata]

/-! ### The FEED of it -/

/-- Where the loop leaves nothing, there is nothing for the bound to clear (R114). -/
theorem reassemble_of_drain_empty (ceiling : Nat) (r chunk : Memory) (h : (drain (r ++ chunk)).residual = []) :
    reassemble ceiling r chunk = drain (r ++ chunk) :=
  if_neg (by simp [Memory.append, h])

/-- A FEED of which the loop leaves nothing answers what the loop gives, at any ceiling. -/
theorem feedAll_of_drain_empty (s : State) (chunk : List Byte) (d : Drained) (hs : s.accepts chunk)
    (hdrain : drain (s.residual ++ chunk) = d) (hempty : d.residual = []) :
    ∃ t, feedAll [chunk] s = some (d.messages, t) ∧ t.residual = [] ∧ t.events = s.events ++ d.events := by
  subst hdrain
  have hreassemble := reassemble_of_drain_empty s.config.ceiling s.residual chunk hempty
  refine ⟨s.afterFeed chunk, feedAll_singleton s chunk hs, ?_, ?_⟩
  · rw [State.afterFeed_residual, hreassemble, hempty]
  · rw [State.afterFeed_events, hreassemble]

/-- FEED of a chunk that completes a data frame behind noise: its message, and an empty buffer (R134). -/
theorem feedAll_noise_encodeMessage (s : State) (chunk g : List Byte) (m : CanMessage) (hs : s.accepts chunk)
    (hjoin : s.residual ++ chunk = g ++ encodeMessage m) (hg : markerFree g) (hlegal : m.legal)
    (hdata : m.isRemoteRequest = false) :
    ∃ t, feedAll [chunk] s = some ([receivedMessage m], t) ∧ t.residual = [] ∧
      t.events = s.events ++ (noiseThenMessage g (receivedMessage m)).events :=
  feedAll_of_drain_empty s chunk _ hs (hjoin ▸ drain_noise_encodeMessage g m hg hlegal hdata) rfl

/-- Noise and a data frame, fed in any chunks to a fresh block with a legal ceiling (R134). -/
theorem feedAll_chunked_noise_encodeMessage (s : State) (cs : List (List Byte)) (g : List Byte) (m : CanMessage)
    (hconfig : s.config.legal) (hs : s.fresh) (hcs : ∀ c ∈ cs, s.accepts c) (hjoin : cs.flatten = g ++ encodeMessage m)
    (hg : markerFree g) (hlegal : m.legal) (hdata : m.isRemoteRequest = false) :
    ∃ t, feedAll cs s = some ([receivedMessage m], t) ∧ t.residual = [] := by
  obtain ⟨out, t, hall, hfed⟩ := exists_fed cs s hs.inv hconfig hcs
  have hagrees := hfed.agrees
  rw [hs.2, List.nil_append, hjoin, drain_noise_encodeMessage g m hg hlegal hdata] at hagrees
  obtain rfl := hagrees.messages
  exact ⟨t, hall, hagrees.empty rfl⟩

/-- FEED behind which the buffer is noise: nothing is delivered, and the noise is kept within the bound (R178). -/
theorem feedAll_noise (s : State) (chunk : List Byte) (hs : s.accepts chunk)
    (hfree : markerFree (s.residual ++ chunk)) :
    feedAll [chunk] s = some ([], s.afterFeed chunk) ∧
    (s.afterFeed chunk).residual =
      if s.config.ceiling < (s.residual ++ chunk).length then [] else s.residual ++ chunk := by
  have hdrain := drain_of_markerFree _ hfree
  rw [feedAll_singleton s chunk hs, State.afterFeed_residual, reassemble, safetyBound_residual, Memory.append, hdrain]
  exact ⟨rfl, rfl⟩

end Sys2Proof.Machine
end

section
/-! SUPPORT. What DECODE consumed, written again by ENCODE: the same bytes in upper case (43_properties.md R141). And
the bytes a decode attempt passes over hold no marker (R138). -/

namespace Sys2Proof.Machine

/-! ### A frame in upper case -/

/-- Upper-casing a digit's byte gives the byte ENCODE emits for its value (R57). -/
theorem upperHex_digitByte (d : HexDigit) (h : d.wf = true) :
    upperHex (digitByte d) = digitByte (upperDigit d.value.toNat) := by
  have key : ∀ (v : BitVec 4) (l : Bool), HexDigit.wf ⟨v, l⟩ = true →
      upperHex (digitByte ⟨v, l⟩) = digitByte (upperDigit v.toNat) := by decide
  exact key d.value d.lower h

/-- A data byte's digits in upper case. -/
def upperData (d : DataDigits) : DataDigits := ⟨upperDigit d.hi.value.toNat, upperDigit d.lo.value.toNat⟩

/-- A frame with every digit in upper case. -/
def upperFrame (f : WireFrame) : WireFrame where
  remote := f.remote
  id := ⟨upperDigit f.id.hi.value.toNat, upperDigit f.id.mid.value.toNat, upperDigit f.id.lo.value.toNat⟩
  data := f.data.map upperData

theorem map_upperHex_dataBytes (ds : List DataDigits) (h : ∀ d ∈ ds, d.wf = true) :
    (dataBytes ds).map upperHex = dataBytes (ds.map upperData) := by
  induction ds with
  | nil => rfl
  | cons d ds ih =>
    obtain ⟨hhi, hlo⟩ := (dataDigits_wf_iff d).mp (h d (by simp))
    have htail := ih fun e he => h e (by simp [he])
    simp [upperHex_digitByte, hhi, hlo, htail, upperData]

/-- Upper-casing a frame's bytes upper-cases its digits and keeps the structural bytes. -/
theorem map_upperHex_frameBytes (f : WireFrame) (hwf : f.wf = true) (hn : f.data.length ≤ 8) :
    (frameBytes f).map upperHex = frameBytes (upperFrame f) := by
  obtain ⟨hhi, hmid, hlo, hds⟩ := (wireFrame_wf_iff f).mp hwf
  have hmarker : upperHex (if f.remote then remoteMarker else dataMarker) =
      if f.remote then remoteMarker else dataMarker := by cases f.remote <;> rfl
  have hlength : upperHex (hexChar f.data.length) = hexChar f.data.length := (hexChar_plain _ (by omega)).2.2.2
  have hend : upperHex terminator = terminator := rfl
  simp [frameBytes_eq, frameBody, hmarker, hlength, hend, upperHex_digitByte, hhi, hmid, hlo,
    map_upperHex_dataBytes f.data hds, upperFrame]

/-! ### The frame of a frame's message -/

/-- A data byte's two digits in upper case are the digits of its value. -/
theorem byteFrameDigits_dataDigitsByte (d : DataDigits) :
    byteFrameDigits (dataDigitsByte d) = upperData d := by
  have hhi := d.hi.value.isLt
  have hlo := d.lo.value.isLt
  have hvalue : (dataDigitsByte d).toNat = d.hi.value.toNat * 16 + d.lo.value.toNat :=
    Nat.mod_eq_of_lt (by omega)
  rw [byteFrameDigits, hvalue, upperData]
  congr <;> omega

theorem frameMessage_legal (f : WireFrame) (h : f.data.length ≤ 8) : (frameMessage f).legal :=
  (Nat.mod_eq_of_lt (by omega) : f.data.length % 2 ^ 4 = f.data.length).trans_le h

theorem payload_frameMessage (f : WireFrame) (h : f.data.length ≤ 8) :
    payload (frameMessage f) = f.data.map dataDigitsByte := by
  have hlength : (frameMessage f).length.toNat = (f.data.map dataDigitsByte).length := by
    rw [List.length_map]
    exact Nat.mod_eq_of_lt (by omega)
  rw [payload, hlength]
  exact dataList_dataOfList_take _ (by simpa using h)

/-- Written again, a frame's message is the frame in upper case. -/
theorem messageFrame_frameMessage (f : WireFrame) (h : f.data.length ≤ 8) : messageFrame (frameMessage f) = upperFrame f := by
  have hhi := f.id.hi.value.isLt
  have hmid := f.id.mid.value.isLt
  have hlo := f.id.lo.value.isLt
  have hidentifier : (frameMessage f).identifier.toNat =
      f.id.hi.value.toNat * 256 + f.id.mid.value.toNat * 16 + f.id.lo.value.toNat := Nat.mod_eq_of_lt (by omega)
  have hdata : (f.data.map dataDigitsByte).map byteFrameDigits = f.data.map upperData := by
    simp [Function.comp_def, byteFrameDigits_dataDigitsByte]
  rw [messageFrame, payload_frameMessage f h, hidentifier, hdata, upperFrame]
  congr <;> omega

/-- ENCODE of what DECODE gave is the bytes it consumed, in upper case (R141). -/
theorem encodeMessage_of_decodeWindow {w : Memory} {m : CanMessage} {c : Nat} (h : decodeWindow w = .frame m c) :
    m.legal ∧ encodeMessage m = (w.take c).map upperHex ∧ decodeWindow (w.take c) = .frame m c := by
  obtain ⟨f, rest, hdata, hwf, hn, rfl, rfl, rfl⟩ := (decodeWindow_eq_frame_iff w m c).mp h
  have hlegal := frameMessage_legal f hn
  have hframe := decodeWindow_frameBytes f [] hdata hwf hn
  rw [List.append_nil] at hframe
  rw [List.take_left, encodeMessage_eq_frameBytes _ hlegal, messageFrame_frameMessage f hn,
    map_upperHex_frameBytes f hwf hn]
  exact ⟨hlegal, rfl, hframe⟩

/-! ### No marker is passed over -/

/-- A hex digit is no marker (R58). -/
theorem read_ne_marker_of_hexAt {w : Memory} {p : Nat} (h : hexAt w p = true) : w[p]? ≠ some dataMarker := by
  intro hmarker
  simp [hexAt, Memory.read, hmarker, show isHex dataMarker = false from rfl] at h

/-- Behind index 0, all that a skip drops is noise before the marker or hex digits (R138). -/
theorem skip_drops_no_marker {w : Memory} {n : Nat} (h : decodeWindow w = .skipPrefix n) (p : Nat) (h1 : 1 ≤ p)
    (hp : p < n) : w[p]? ≠ some dataMarker := by
  cases (decides_iff w _).mpr h with
  | noise _ _ _ _ hfree =>
    intro hmarker
    rw [← List.getElem?_take_of_lt hp] at hmarker
    exact hfree (List.mem_of_getElem? hmarker)
  | headerDigit _ _ _ _ _ hbefore _ => exact read_ne_marker_of_hexAt (hbefore p h1 hp)
  | lengthDigit _ _ hdigits _ => exact read_ne_marker_of_hexAt (hdigits p h1 (by omega))
  | dataDigit len _ header _ _ _ hbefore _ =>
    rcases Nat.lt_or_ge p 5 with h4 | h5
    · exact read_ne_marker_of_hexAt (header.digits p h1 (by omega))
    · exact read_ne_marker_of_hexAt (hbefore p h5 hp)
  | otherByte len _ header hdata _ _ =>
    rcases Nat.lt_or_ge p 5 with h4 | h5
    · exact read_ne_marker_of_hexAt (header.digits p h1 (by omega))
    · exact read_ne_marker_of_hexAt (hdata p h5 hp)

/-- A frame holds one marker, at index 0 (R58, R138). -/
theorem frame_drops_no_marker {w : Memory} {m : CanMessage} {c : Nat} (h : decodeWindow w = .frame m c) (p : Nat)
    (h1 : 1 ≤ p) (hp : p < c) : w[p]? ≠ some dataMarker := by
  obtain ⟨n, -, -, hlayout⟩ := layout_of_decodeWindow w m c h
  obtain ⟨-, -, -, honce⟩ := Proofs.structuralBytesStandOnceInAFrame
  rw [← List.getElem?_take_of_lt hp]
  exact fun hmarker => absurd (((honce _ n hlayout).1 p).mp hmarker) (by omega)

end Sys2Proof.Machine
end

section
/-! SUPPORT. The statements of 43_properties.md, settled. -/

namespace Sys2Proof.Proofs

open Sys2Proof.Machine

/-! ### One message -/

/-- Settles O45: what ENCODE emits is the frame DECODE gives the message back for. -/
theorem encodeThenDecodeGivesTheMessageBack : Obligations.EncodeThenDecodeGivesTheMessageBack := by
  intro s hlegal hdata
  have hframe := decodeWindow_encodeMessage s.msgIn [] hlegal hdata
  rw [List.append_nil] at hframe
  exact ⟨_, _, encodeMessage s.msgIn, receivedMessage s.msgIn, (exec_opEncode_eq_next_iff s _).mpr ⟨hlegal, rfl⟩, rfl,
    encodeMessage_length s.msgIn hlegal, exec_opDecode _, congrArg some hframe, receivedMessage_same s.msgIn hlegal⟩

/-- Settles O53: the frame is decoded whatever follows it. -/
theorem frameFollowedByAnything : Obligations.FrameFollowedByAnything := by
  intro s m q hlegal hdata
  have hframe := decodeWindow_encodeMessage m q hlegal hdata
  rw [encodeMessage_length m hlegal] at hframe
  exact ⟨_, receivedMessage m, exec_opDecode _, congrArg some hframe, receivedMessage_same m hlegal⟩

/-- Settles O55: a frame of which a byte is missing is `Incomplete`. -/
theorem properPrefixIsIncomplete : Obligations.ProperPrefixIsIncomplete := by
  intro s m n hlegal hdata hn
  rw [exec_opDecode_outcome_iff]
  exact (encodeMessage_layout m hlegal hdata).decodeWindow_take hn

/-- Settles O54: ENCODE writes the consumed bytes in upper case, and DECODE sees neither case nor what follows. -/
theorem decodeThenEncodeIsUpperCase : Obligations.DecodeThenEncodeIsUpperCase := by
  intro w m c h
  obtain ⟨hlegal, hbytes, htake⟩ := encodeMessage_of_decodeWindow h
  have hdecode : decodeWindow (encodeMessage m) = .frame m c := by rw [hbytes, decodeWindow_map_upperHex, htake]
  refine ⟨fun s => ?_, ?_, hdecode, fun w' h' hupper hupper' => ?_, fun q => ?_, ?_⟩
  · exact ⟨_, (exec_opEncode_eq_next_iff _ _).mpr ⟨hlegal, rfl⟩, congrArg some hbytes⟩
  · rw [encodeMessage_length m hlegal, (decodedFrom_of_decodeWindow h).consumed]
  · obtain ⟨-, hbytes', -⟩ := encodeMessage_of_decodeWindow h'
    rw [← hupper', ← hbytes', hbytes, hupper]
  · exact decodeWindow_append_of_frame htake q
  · rw [decodeWindow_map_upperHex, h]

/-- Settles O41: what a skip or a frame drops behind index 0 holds no marker. -/
theorem noMarkerIsSkippedUnexamined : Obligations.NoMarkerIsSkippedUnexamined := by
  rintro w n (hskip | ⟨m, hframe⟩)
  · exact skip_drops_no_marker hskip
  · exact frame_drops_no_marker hframe

/-! ### Streams -/

/-- Settles O49: whole, noise and frame meet the loop in one buffer; in chunks, what is fed agrees with the whole. -/
theorem noiseThenFrameGivesTheMessage : Obligations.NoiseThenFrameGivesTheMessage := by
  intro s g m cs hs hg hlegal hdata
  have hsame := receivedMessage_same m hlegal
  refine ⟨fun hwhole => ?_, fun hconfig hjoin hcs => ?_⟩
  · have hbuffer : s.residual ++ (g ++ encodeMessage m) = g ++ encodeMessage m := by rw [hs.2, List.nil_append]
    obtain ⟨t, hall, hempty, -⟩ := feedAll_noise_encodeMessage s _ g m hwhole hbuffer hg hlegal hdata
    exact ⟨_, t, hall, hsame, hempty⟩
  · obtain ⟨t, hall, hempty⟩ := feedAll_chunked_noise_encodeMessage s cs g m hconfig hs hcs hjoin hg hlegal hdata
    exact ⟨_, t, hall, hsame, hempty⟩

/-- Settles O47: a frame behind no noise, in chunks and whole. -/
theorem chunkedFrameGivesItsMessage : Obligations.ChunkedFrameGivesItsMessage := by
  intro s m cs hconfig hs hlegal hdata hjoin _ hwhole
  have hcs := accepts_of_mem s cs (hjoin ▸ hwhole)
  have hbuffer : s.residual ++ encodeMessage m = [] ++ encodeMessage m := by rw [hs.2]
  obtain ⟨t, hall, hempty⟩ := feedAll_chunked_noise_encodeMessage s cs [] m hconfig hs hcs hjoin nofun hlegal hdata
  obtain ⟨t', hall', hempty', -⟩ := feedAll_noise_encodeMessage s _ [] m hwhole hbuffer nofun hlegal hdata
  exact ⟨_, t, _, t', _, hall, hall', rfl, rfl, receivedMessage_same m hlegal, hempty, hempty'⟩

/-- Settles O48: either way of feeding agrees up to noise with the loop run on the whole stream, and leaves an end of
the stream. -/
theorem chunkingInvariance : Obligations.ChunkingInvariance := by
  intro s cs hconfig hs hcs hwhole
  obtain ⟨out, t, hall, hfed⟩ := exists_fed cs s hs.inv hconfig hcs
  obtain ⟨out', t', hall', hfed'⟩ := exists_fed [cs.flatten] s hs.inv hconfig (by simpa using hwhole)
  rw [List.flatten_singleton] at hfed'
  obtain rfl : out = out' := hfed.agrees.messages.trans hfed'.agrees.messages.symm
  exact ⟨out, t, t', hall, hall', noise_between_suffixes _ _ _ hfed.suffix hfed'.suffix
    (hfed.agrees.inProgress.trans hfed'.agrees.inProgress.symm)⟩

/-- Settles O52: at either ceiling the messages are those of the loop run on the whole stream. -/
theorem ceilingDoesNotChangeTheOutput : Obligations.CeilingDoesNotChangeTheOutput := by
  intro s cs c1 c2 hs h1 h2 hcs
  obtain ⟨out, t1, hall1, hfed1⟩ := exists_fed cs { s with config := { s.config with ceiling := c1 } }
    (State.Inv.of_empty hs.2) h1 hcs
  obtain ⟨out', t2, hall2, hfed2⟩ := exists_fed cs { s with config := { s.config with ceiling := c2 } }
    (State.Inv.of_empty hs.2) h2 hcs
  obtain rfl : out = out' := hfed1.agrees.messages.trans hfed2.agrees.messages.symm
  exact ⟨out, t1, t2, hall1, hall2⟩

/-- Settles O51: the bound leaves nothing of the noise or, in chunks, an end of it; a frame that meets noise in the
buffer is delivered, and one that leaves nothing gives the bound nothing to clear. -/
theorem overflowRecovery : Obligations.OverflowRecovery := by
  intro s g m cs hconfig hs hg hlong hlegal hdata haccepts
  have hsame := receivedMessage_same m hlegal
  refine ⟨fun hnoise => ?_, fun hwhole => ?_, fun hjoin hcs => ?_⟩
  · obtain ⟨hall, hresidual⟩ := feedAll_noise s g hnoise (by rwa [hs.2])
    rw [hs.2, List.nil_append, if_pos hlong] at hresidual
    obtain ⟨u, hframe, -, -⟩ := feedAll_noise_encodeMessage (s.afterFeed g) _ [] m haccepts (by rw [hresidual]) nofun
      hlegal hdata
    exact ⟨_, _, u, hall, hresidual, hframe, hsame⟩
  · obtain ⟨u, hall, hempty, hevents⟩ := feedAll_noise_encodeMessage s _ g m hwhole (by rw [hs.2, List.nil_append]) hg
      hlegal hdata
    refine ⟨_, u, hall, hsame, hempty, fun n => ?_⟩
    rw [hevents, List.drop_left, noiseThenMessage]
    split <;> simp
  · obtain ⟨out, t, hall, hfed⟩ := exists_fed cs s hs.inv hconfig hcs
    obtain ⟨hc, hopen, hinv, hsuffix, hagrees⟩ := hfed
    rw [hs.2, List.nil_append, hjoin] at hsuffix hagrees
    rw [drain_of_markerFree g hg] at hagrees
    obtain rfl := hagrees.messages
    have haccepts' : t.accepts (encodeMessage m) := by rwa [State.accepts, hopen, hc]
    have hfree : markerFree t.residual := fun hmem => hg (hsuffix.subset hmem)
    obtain ⟨u, hframe, -, -⟩ := feedAll_noise_encodeMessage t _ t.residual m haccepts' rfl hfree hlegal hdata
    exact ⟨t, _, u, hall, hsuffix, hc ▸ hinv.bounded, hframe, hsame⟩

/-- Settles O50: the first attempt skips to the cut, and the loop goes on with the second frame alone. -/
theorem embeddedRestart : Obligations.EmbeddedRestart := by
  intro s m1 m2 n hs hlegal1 hlegal2 hdata h1 hn hbytes haccepts
  have hdrain := drain_cut_then_encodeMessage m1 m2 n hlegal1 hlegal2 hdata h1 hn hbytes
  rw [← List.nil_append (_ ++ _), ← hs.2] at hdrain
  obtain ⟨t, hall, hempty, -⟩ := feedAll_of_drain_empty s _ _ haccepts hdrain rfl
  exact ⟨decodeWindow_cut_then_encodeMessage m1 m2 n hlegal1 hlegal2 hdata h1 hn hbytes, _, t, hall,
    receivedMessage_same m2 hlegal2, hempty⟩

/-- Settles O46: a remote frame holds no marker, so it is noise. -/
theorem remoteFramesAreNeverReceived : Obligations.RemoteFramesAreNeverReceived := by
  intro s m _ hremote hs haccepts
  have hfree := encodeMessage_markerFree m hremote
  obtain ⟨-, hresidual⟩ := feedAll_noise s (encodeMessage m) haccepts (by rwa [hs.2])
  rw [hs.2, List.nil_append] at hresidual
  refine ⟨hfree, decodeWindow_of_markerFree _ hfree, _, feed_of_accepts s _ haccepts, ?_, hresidual⟩
  rw [State.afterFeed_msgOut, hs.2, List.nil_append, drain_of_markerFree _ hfree]

/-- Settles O43: a T row is FEED of its frame's bytes, and the frame stands behind noise in the joined buffer. -/
theorem dataFrameArrivalDeliversItsMessage : Obligations.DataFrameArrivalDeliversItsMessage := by
  intro i f s hrow hdata hwf haccepts hfree
  rw [encode_wire_row i f hrow] at haccepts
  rw [wf_of_frame? i f hrow] at hwf
  have hframe := decodeWindow_frameBytes f [] hdata hwf (frame?_data_length i f hrow)
  rw [List.append_nil] at hframe
  have hdrain := drain_noise_frame s.residual _ _ hfree hframe
  have hempty : (drain (s.residual ++ frameBytes f)).residual = [] := by rw [hdrain]; rfl
  rw [exec_wire_row i f s hrow, State.receiveFrame, feedChunk_of_accepts _ s haccepts,
    reassemble_of_drain_empty _ _ _ hempty, hdrain]
  simp [State.deliver, noiseThenMessage]

end Sys2Proof.Proofs
end

section
/-! SUPPORT. The conditions of 60_exceptions.md: which ones the reassembler's loop raises, in what order (R151 to R156),
and that no rule reads the ghost list (R150; log entry 5). -/

namespace Sys2Proof.Machine

/-! ### The conditions of the loop -/

/-- A condition an attempt that skips raises, with an index its row of R151 admits: at least one byte of noise, or an
offending byte inside a frame, whose last index is 21. -/
def Condition.isSkip (e : Condition) : Prop :=
  (∃ k, 1 ≤ k ∧ e = .desynchronized k) ∨ (∃ p, 1 ≤ p ∧ p ≤ 21 ∧ e = .malformedFrame p)

/-- The offending byte of a malformed frame stands at or before the terminator's place of the longest frame (R151). -/
theorem skip_at_marker_le {w : Memory} {n : Nat} (h : decodeWindow w = .skipPrefix n)
    (hmarker : w[0]? = some dataMarker) : n ≤ 21 := by
  cases (decides_iff w _).mpr h with
  | noise _ _ hn _ hfree =>
    rw [← List.getElem?_take_of_lt hn] at hmarker
    exact absurd (List.mem_of_getElem? hmarker) hfree
  | headerDigit _ _ _ _ h4 _ _ => omega
  | lengthDigit _ _ _ _ => omega
  | dataDigit len _ header _ _ hlt _ _ =>
    have hlen := header.inRange
    omega
  | otherByte len _ header _ _ _ =>
    have hlen := header.inRange
    omega

/-- The condition of a skip is of the two kinds R151 names for it, by the byte at index 0. -/
theorem skipCondition_isSkip {w : Memory} {n : Nat} (h : decodeWindow w = .skipPrefix n) :
    (skipCondition w n).isSkip := by
  obtain ⟨hn, -⟩ := skip_progress w n h
  by_cases hmarker : w[0]? = some dataMarker
  · rw [skipCondition_of_marker w n hmarker]
    exact .inr ⟨n, hn, skip_at_marker_le h hmarker, rfl⟩
  · rw [skipCondition_of_no_marker w n hmarker]
    exact .inl ⟨n, hn, rfl⟩

/-- The loop raises `IncompleteInput` once, at its end, and before it one condition for each skip (R151, R152). -/
theorem drain_events_eq_skips (r : Memory) :
    ∃ evs, (drain r).events = evs ++ [.incompleteInput] ∧ ∀ e ∈ evs, e.isSkip := by
  refine drain_induction (fun _ d => ∃ evs, d.events = evs ++ [.incompleteInput] ∧ ∀ e ∈ evs, e.isSkip)
    ?stop ?skip ?frame r
  case stop => exact fun _ _ => ⟨[], rfl, nofun⟩
  case skip =>
    rintro r k hskip ⟨evs, hevents, hskips⟩
    refine ⟨skipCondition r k :: evs, ?_, List.forall_mem_cons.mpr ⟨skipCondition_isSkip hskip, hskips⟩⟩
    rw [Drained.raise_events, hevents, List.cons_append]
  case frame => exact fun _ _ _ _ ih => ih

/-! ### The ghost list is not read -/

/-- The block as it stands, under another ghost list. -/
def State.withEvents (evs : List Condition) (s : State) : State := { s with events := evs }

@[simp] theorem State.withEvents_msgIn (evs : List Condition) (s : State) : (s.withEvents evs).msgIn = s.msgIn := rfl

/-- States that agree on everything but the ghost list are one state under two ghost lists. -/
theorem State.sameButEvents_iff (s t : State) : s.sameButEvents t ↔ ∃ evs, t = s.withEvents evs := by
  constructor
  · intro h
    have hcommon : (t.withEvents []).withEvents t.events = (s.withEvents []).withEvents t.events :=
      congrArg (State.withEvents t.events) h.symm
    exact ⟨t.events, hcommon⟩
  · rintro ⟨evs, rfl⟩
    rfl

/-- Two answers of the machine that the host cannot tell apart: next states that agree on everything but the ghost
list, or one refusal; no step faults (log entry 18). -/
inductive AnswersAgree : Result → Result → Prop where
  | next {s t : State} : s.sameButEvents t → AnswersAgree (.next s) (.next t)
  | refused (r : Refusal) : AnswersAgree (.refused r) (.refused r)

theorem AnswersAgree.exists_next {s : State} {b : Result} (h : AnswersAgree (.next s) b) :
    ∃ t, b = .next t ∧ s.sameButEvents t := by
  cases h with
  | next hsame => exact ⟨_, rfl, hsame⟩

theorem AnswersAgree.eq_refused {r : Refusal} {b : Result} (h : AnswersAgree (.refused r) b) : b = .refused r := by
  cases h
  rfl

/-- FEED of a chunk reads `open`, MAX_CHUNK, the ceiling and the buffer, and appends to the ghost list. -/
theorem feedChunk_answersAgree (chunk : List Byte) (s : State) (evs : List Condition) :
    AnswersAgree (s.feedChunk chunk) ((s.withEvents evs).feedChunk chunk) := by
  rcases feedChunk_cases chunk s with ⟨hclosed, hs⟩ | ⟨hopen, ⟨n, hmax, hlong⟩, hs⟩ | ⟨hopen, hmax, hs⟩
  · rw [hs, feedChunk_of_closed chunk (s.withEvents evs) hclosed]
    exact .refused _
  · rw [hs, feedChunk_of_too_long chunk (s.withEvents evs) n hopen hmax hlong]
    exact .refused _
  · rw [hs, feedChunk_of_accepted chunk (s.withEvents evs) hopen hmax]
    exact .next rfl

/-- No instruction reads the ghost list (R150). -/
theorem exec_answersAgree (i : Instr) (s : State) (evs : List Condition) :
    AnswersAgree (exec i s) (exec i (s.withEvents evs)) := by
  rcases frame_or_operation i with ⟨f, hf⟩ | rfl | rfl | rfl | rfl | rfl
  case inl =>
    rw [exec_wire_row i f s hf, exec_wire_row i f _ hf]
    exact feedChunk_answersAgree (frameBytes f) s evs
  case inr.inl => exact .next rfl
  case inr.inr.inl => exact .next rfl
  case inr.inr.inr.inl => exact feedChunk_answersAgree s.rx s evs
  case inr.inr.inr.inr.inl =>
    rw [exec_opEncode, exec_opEncode, State.withEvents_msgIn]
    split
    · exact .next rfl
    · exact .refused _
  case inr.inr.inr.inr.inr => exact .next rfl

/-- No step reads the ghost list: the requests choose what runs, and RESET keeps the list as it is (R150). -/
theorem step_answersAgree (s : State) (evs : List Condition) :
    AnswersAgree (step s) (step (s.withEvents evs)) := by
  rcases hp : s.pending with _ | ⟨_ | _ | _, rest⟩
  case nil =>
    rw [step_idle s hp, step_idle (s.withEvents evs) hp]
    exact .next rfl
  case cons.command code rx m =>
    rw [step_command s code rx m rest hp, step_command (s.withEvents evs) code rx m rest hp]
    rcases decodeCommand code with r | i
    · cases r
      case idleCode => exact .next rfl
      all_goals exact .refused _
    · exact exec_answersAgree i _ evs
  case cons.wireChunk chunk =>
    rcases step_wireChunk s chunk rest hp with ⟨i, hi, hs⟩ | ⟨hno, hs⟩ <;>
      rcases step_wireChunk (s.withEvents evs) chunk rest hp with ⟨j, hj, ht⟩ | ⟨hno', ht⟩
    · obtain rfl : i = j := by simpa [hi] using hj
      rw [hs, ht]
      exact exec_answersAgree i _ evs
    · exact absurd hi (hno' i)
    · exact absurd hj (hno j)
    · rw [hs, ht]
      exact exec_answersAgree .opFeed _ evs
  case cons.reset =>
    rw [step_reset s rest hp, step_reset (s.withEvents evs) rest hp]
    exact .next rfl

end Sys2Proof.Machine
end

section
/-! SUPPORT. The statements of 60_exceptions.md, settled. -/

namespace Sys2Proof.Proofs

open Sys2Proof.Machine

/-- Settles O36: the run is the one `drain` makes, whose conditions are those of its skips and `IncompleteInput` last;
the bound appends its own to them. -/
theorem conditionsOfOneFeed : Obligations.ConditionsOfOneFeed := by
  intro s t h
  obtain ⟨-, rfl⟩ := feedChunk_next s.rx s t h
  obtain ⟨evs, hevents, hskips⟩ := drain_events_eq_skips (s.residual ++ s.rx)
  refine ⟨_, evs, _, hevents ▸ loopRun_drain (s.residual ++ s.rx), hskips, ?_⟩
  rw [State.deliver_events, reassemble, safetyBound_events, Memory.append, hevents]
  simp only [List.append_assoc]

/-- Settles O59: the two steps answer alike, so a next state or a refusal of the one is met by the other's. -/
theorem conditionsAreNotObservable : Obligations.ConditionsAreNotObservable := by
  intro s t hsame
  obtain ⟨evs, rfl⟩ := (State.sameButEvents_iff s t).mp hsame
  have hagree := step_answersAgree s evs
  refine ⟨fun s' hs => ?_, fun r hs => ?_⟩
  · rw [hs] at hagree
    exact hagree.exists_next
  · rw [hs] at hagree
    exact hagree.eq_refused

end Sys2Proof.Proofs
end

section
/-! SUPPORT. An arriving chunk as the FEED of its bytes (70_reset_and_hazards.md R174), and the FEED that can only hold
bytes back: noise, remote frames and a frame cut short stay in the buffer until the bound (R177, R178, R181). -/

namespace Sys2Proof.Machine

/-! ### What arrives is fed -/

/-- Every wire row is the FEED of its bytes (R174, log entry 1). -/
theorem exec_wire_row_eq_feedChunk (i : Instr) (f : WireFrame) (s : State) (hrow : i.frame? = some f) :
    exec i s = s.feedChunk (encode i) := by
  rw [exec_wire_row i f s hrow, encode_wire_row i f hrow, State.receiveFrame]

/-- A chunk the wire decoder reads whole is the encoding of a wire row. -/
theorem encode_of_decodeWire (chunk : List Byte) (i : Instr) (h : decodeWire chunk = .ok i []) :
    encode i = chunk ∧ ∃ f, i.frame? = some f := by
  obtain ⟨f, hrow, -, hbytes⟩ := (decodeWire_eq_ok_iff chunk [] i).mp h
  rw [List.append_nil] at hbytes
  exact ⟨(encode_wire_row i f hrow).trans hbytes.symm, f, hrow⟩

/-- The step on a transport read is FEED of the bytes read, frame or not. -/
theorem step_wireChunk_eq_feedChunk (s : State) (chunk : List Byte) (rest : List Request)
    (h : s.pending = .wireChunk chunk :: rest) :
    step s = State.feedChunk chunk { s with cmd := feedCode, rx := chunk, pending := rest } := by
  rcases step_wireChunk s chunk rest h with ⟨i, hdecode, hstep⟩ | ⟨-, hstep⟩
  · obtain ⟨rfl, f, hrow⟩ := encode_of_decodeWire chunk i hdecode
    rw [hstep, exec_wire_row_eq_feedChunk i f _ hrow]
  · exact hstep

/-! ### FEED that decides nothing -/

/-- What a FEED gives of a buffer on which the first attempt is `Incomplete`: no message, and every byte held back
unless there are more than the ceiling (R114, R119). -/
def heldBack (ceiling : Nat) (w : Memory) : Drained :=
  safetyBound ceiling { residual := w, messages := [], events := [.incompleteInput] }

theorem heldBack_messages (ceiling : Nat) (w : Memory) : (heldBack ceiling w).messages = [] :=
  safetyBound_messages _ _

theorem heldBack_residual (ceiling : Nat) (w : Memory) :
    (heldBack ceiling w).residual = if ceiling < w.length then [] else w :=
  safetyBound_residual _ _

theorem heldBack_events (ceiling : Nat) (w : Memory) :
    (heldBack ceiling w).events =
      [.incompleteInput] ++ if ceiling < w.length then [.bufferOverflow w.length] else [] :=
  safetyBound_events _ _

/-- The FEED of a chunk behind which the buffer is `Incomplete` holds the joined bytes back. -/
theorem feedChunk_of_incomplete (chunk : List Byte) (s : State) (hs : s.accepts chunk)
    (h : decodeWindow (s.residual ++ chunk) = .incomplete) :
    s.feedChunk chunk = .next (s.deliver (heldBack s.config.ceiling (s.residual ++ chunk))) := by
  rw [feedChunk_of_accepts chunk s hs, reassemble, Memory.append, drain_of_incomplete _ h, heldBack]

/-- A remote row's bytes hold no marker: behind the remote marker they are those of a data frame (R52, R58). -/
theorem encode_markerFree_of_remote (i : Instr) (f : WireFrame) (hrow : i.frame? = some f) (hremote : f.remote = true)
    (hwf : i.wf = true) : markerFree (encode i) := by
  obtain ⟨w, hbytes, hlayout⟩ := (Proofs.wireRowsHaveTheTableLayout i f hrow hwf).2 hremote
  obtain ⟨-, -, -, honce⟩ := Proofs.structuralBytesStandOnceInAFrame
  rw [hbytes, markerFree, List.mem_cons, not_or]
  refine ⟨by decide, fun hmem => ?_⟩
  obtain ⟨p, hp⟩ := List.mem_iff_getElem?.mp hmem
  exact absurd (((honce _ _ hlayout).1 (p + 1)).mp hp) (Nat.succ_ne_zero p)

/-! ### RESET -/

/-- A RESET request, in any state (R170). -/
theorem step_issue_reset (s : State) : step (s.issue .reset) = .next s.applyReset :=
  step_reset (s.issue .reset) s.pending rfl

end Sys2Proof.Machine
end

section
/-! SUPPORT. The statements of 70_reset_and_hazards.md, settled. -/

namespace Sys2Proof.Proofs

open Sys2Proof.Machine

/-! ### Reset -/

/-- Settles O11: the next states of RESET, OPEN and CLOSE, and the block just built, field by field. -/
theorem valuesAfterResetOpenClose : Obligations.ValuesAfterResetOpenClose :=
  ⟨fun s => ⟨⟨_, step_issue_reset s, rfl, rfl, rfl, rfl, rfl, rfl⟩,
      ⟨_, exec_opOpen s, rfl, rfl, rfl, rfl, rfl, rfl⟩, ⟨_, exec_opClose s, rfl, rfl, rfl, rfl, rfl, rfl⟩⟩,
    State.reset_isOpen, State.reset_residual, State.reset_tx, State.reset_msgOut, State.reset_outcome⟩

/-- Settles O14: after RESET the block is closed, which only FEED tests. -/
theorem afterResetOnlyFeedWaitsForOpen : Obligations.AfterResetOnlyFeedWaitsForOpen := by
  intro s r chunk m hreset
  obtain rfl := Host.Outcome.next.inj ((step_issue_reset s).symm.trans hreset)
  exact ⟨fun hlegal => ⟨_, (exec_opEncode_eq_next_iff _ _).mpr ⟨hlegal, rfl⟩⟩, ⟨_, exec_opDecode _⟩,
    feedChunk_of_closed chunk _ s.applyReset_isOpen⟩

/-! ### Arrivals -/

/-- Settles O9: both steps run FEED of the chunk on the same state. -/
theorem arrivingChunkIsFeed : Obligations.ArrivingChunkIsFeed := by
  intro s chunk
  rw [step_wireChunk_eq_feedChunk (s.issue (.wireChunk chunk)) chunk s.pending rfl,
    step_command (s.issue (.command 0b011#3 chunk s.msgIn)) 0b011#3 chunk s.msgIn s.pending rfl]
  rfl

/-- Settles O42: the row's FEED and the host's differ in what port RX carries. -/
theorem wireRowIsFeedOfItsBytes : Obligations.WireRowIsFeedOfItsBytes := by
  intro i f s hrow
  rw [exec_wire_row_eq_feedChunk i f s hrow]
  exact ⟨fun hs => ⟨_, _, feedChunk_of_accepts _ s hs, feed_of_accepts s _ hs, rfl⟩,
    feedChunk_of_closed _ s, feedChunk_of_too_long _ s⟩

/-! ### Bytes held back -/

/-- Settles O38: a frame cut short is `Incomplete`, and with at most 8 data bytes it is shorter than a legal ceiling. -/
theorem truncatedFrameHoldsBack : Obligations.TruncatedFrameHoldsBack := by
  intro s len hlegal hs _ header hfew
  have hbound : ¬ s.config.ceiling < (s.residual ++ s.rx).length := by
    have hlen := header.inRange
    omega
  refine ⟨_, feedChunk_of_incomplete s.rx s hs (Decides.fewBytes len header hfew).decodeWindow_eq,
    congrArg some (heldBack_messages _ _), ?_⟩
  rw [State.deliver_residual, heldBack_residual, if_neg hbound]

/-- Settles O39: a buffer without a marker, or shorter than 5 bytes, is `Incomplete`. -/
theorem noiseIsRetained : Obligations.NoiseIsRetained := by
  intro s hs hnoise
  have hstalled : decodeWindow (s.residual ++ s.rx) = .incomplete := by
    rcases hnoise with hfree | hshort
    · exact decodeWindow_of_markerFree _ hfree
    · exact (Decides.short hshort).decodeWindow_eq
  exact ⟨_, feedChunk_of_incomplete s.rx s hs hstalled, congrArg some (heldBack_messages _ _), heldBack_residual _ _⟩

/-- Settles O44: a remote frame behind noise is noise, so the FEED of its bytes holds it back. -/
theorem remoteFrameArrivalIsNoise : Obligations.RemoteFrameArrivalIsNoise := by
  intro i f s hrow hremote hwf hs hfree
  have hnoise := (markerFree_append _ _).mpr ⟨hfree, encode_markerFree_of_remote i f hrow hremote hwf⟩
  rw [exec_wire_row_eq_feedChunk i f s hrow, feedChunk_of_incomplete _ s hs (decodeWindow_of_markerFree _ hnoise),
    State.deliver, heldBack_residual, heldBack_messages, heldBack_events, List.append_assoc]

end Sys2Proof.Proofs
end

section
/-! SUPPORT. The instruction decoder on every row: an operation is read exactly from the byte of its code
(30_encoding.md R70, R71), so what is decoded is exactly what is encoded. -/

namespace Sys2Proof.Machine

/-- An instruction is a wire row or has a code on port CMD (R70, R72). -/
theorem row_or_command (i : Instr) : (∃ f, i.frame? = some f) ∨ ∃ c, commandCode i = some c := by
  rcases frame_or_operation i with hrow | rfl | rfl | rfl | rfl | rfl
  · exact .inl hrow
  all_goals exact .inr ⟨_, rfl⟩

/-- The command codes of R70, read and written. -/
theorem decodeCommand_eq_ok_iff (c : BitVec 3) (i : Instr) : decodeCommand c = .ok i ↔ commandCode i = some c := by
  constructor
  · intro h
    have key : ∀ c : BitVec 3, (decodeCommand c).toOption.all (fun i => decide (commandCode i = some c)) = true := by
      decide
    simpa [h, Except.toOption] using key c
  · intro h
    cases i <;> simp only [commandCode, Option.some.injEq, reduceCtorEq] at h <;> subst h <;> rfl

/-- An operation has no operand digits. -/
theorem wf_of_commandCode (i : Instr) (c : BitVec 3) (h : commandCode i = some c) : i.wf = true := by
  cases i <;> simp only [commandCode, reduceCtorEq] at h <;> rfl

/-- An operation's encoding is its code in one byte. -/
theorem encode_command (i : Instr) (c : BitVec 3) (h : commandCode i = some c) : encode i = [c.setWidth 8] := by
  have hframe := decodeCommand_frame? c i ((decodeCommand_eq_ok_iff c i).mpr h)
  simp [encode, hframe, h]

/-- The decoder reads an operation exactly from the byte that holds its code (R70). -/
theorem decode_command_iff (bs rest : List Byte) (i : Instr) (c : BitVec 3) (hcode : commandCode i = some c) :
    decode bs = .ok i rest ↔ bs = c.setWidth 8 :: rest := by
  have hcommand := (decodeCommand_eq_ok_iff c i).mpr hcode
  constructor
  · fun_cases decode bs
    case case2 b bs hb j hj =>
      intro h
      obtain ⟨rfl, rfl⟩ : j = i ∧ bs = rest := by simpa using h
      have hc : BitVec.ofNat 3 b.toNat = c := by simpa [hcode, eq_comm] using (decodeCommand_eq_ok_iff _ j).mp hj
      have hbyte : b = c.setWidth 8 := by bv_omega
      rw [hbyte]
    case case4 b bs hb =>
      intro h
      obtain ⟨f, hrow, -⟩ := (decodeWire_eq_ok_iff _ rest i).mp h
      simp [decodeCommand_frame? c i hcommand] at hrow
    all_goals simp
  · rintro rfl
    have hvalue : (c.setWidth 8).toNat = c.toNat := BitVec.toNat_setWidth_of_le (by omega)
    simp [decode, hvalue, c.isLt, hcommand]

/-- The decoder reads an instruction exactly from its encoding, and only a well-formed one. -/
theorem decode_eq_ok_iff (bs rest : List Byte) (i : Instr) :
    decode bs = .ok i rest ↔ i.wf = true ∧ encode i ++ rest = bs := by
  rcases row_or_command i with ⟨f, hrow⟩ | ⟨c, hcode⟩
  · rw [decode_row_iff bs rest i f hrow, wf_of_frame? i f hrow, encode_wire_row i f hrow, eq_comm (a := bs)]
  · simp [decode_command_iff bs rest i c hcode, wf_of_commandCode i c hcode, encode_command i c hcode, eq_comm]

end Sys2Proof.Machine
end

section
/-! SUPPORT. The round trips of the instruction encoding (30_encoding.md sections 2, 3 and 6), settled. -/

namespace Sys2Proof.Proofs

open Sys2Proof.Machine

/-- Settles O4: the encoding of a well-formed instruction is what the decoder reads it from. -/
theorem encodedInstructionDecodesBack : Obligations.EncodedInstructionDecodesBack :=
  fun i rest hwf => (decode_eq_ok_iff (encode i ++ rest) rest i).mpr ⟨hwf, rfl⟩

/-- Settles O5: the decoder reads an instruction from nothing but its encoding. -/
theorem decodedBytesEncodeBack : Obligations.DecodedBytesEncodeBack :=
  fun bs rest i hread => (decode_eq_ok_iff bs rest i).mp hread

end Sys2Proof.Proofs
end
